-- ==== Sys2Proof/Word.lean ====
section
/-!
DEFINITION. The word types of the block: one abbreviation per width that spec/00_scope.md rule R9,
spec/10_state.md rule R10 and spec/30_encoding.md rules R47 and R48 give.
-/

namespace Sys2Proof

/-- The 16-bit input vector `IV`: every input but the clock, as sampled at one rising edge (R48). -/
abbrev InVec := BitVec 16

/-- A raw sample, unsigned 10 bits (R42, R51). Also the range of a filtered value (R71). -/
abbrev Raw := BitVec 10

/-- A filter accumulator: ACC_W = 32 bits, two's complement (R5, R11). -/
abbrev Acc := BitVec 32

/-- An angle register: 8 bits, unsigned (R5, R12). -/
abbrev Angle := BitVec 8

/-- A timer register: 16 bits, unsigned (R15, R18). -/
abbrev Ticks := BitVec 16

/-- The value of the read port `rd_data` (R32). -/
abbrev RdData := BitVec 16

end Sys2Proof
end

