-- ==== Sys2Proof/Syntax.lean ====
section
/-!
DEFINITION. The operations of the block (one constructor per row of spec/opcode_table.json), the
enumerated fields, and the selection of operations that one input vector makes
(spec/30_encoding.md rules R49 to R54).
-/

namespace Sys2Proof

/-- A channel (R52). Code 3 is reserved and never held, so the type has exactly three values, as
R57 and spec/93_implementation_defined.md U3 allow. -/
inductive Channel where
  | set
  | min
  | max
  deriving DecidableEq, Repr

/-- A read selector (R54). -/
inductive Selector where
  | fset
  | fmin
  | fmax
  | out
  | amin
  | amax
  | rsv6
  | rsv7
  deriving DecidableEq, Repr

/-- The port-level operations (R50): the twelve rows of spec/opcode_table.json. The only operand is
the raw sample of SAMPLE (R51). -/
inductive Instr where
  /-- RESET (R145) -/
  | reset
  /-- SAMPLE raw (R105) -/
  | sample (raw : Raw)
  /-- IDLE (R108) -/
  | idle
  /-- TICK (R95) -/
  | tick
  /-- READ FSET (R120) -/
  | readFset
  /-- READ FMIN (R121) -/
  | readFmin
  /-- READ FMAX (R122) -/
  | readFmax
  /-- READ OUT (R123) -/
  | readOut
  /-- READ AMIN (R124) -/
  | readAmin
  /-- READ AMAX (R125) -/
  | readAmax
  /-- READ RSV6 (R126) -/
  | readRsv6
  /-- READ RSV7 (R126) -/
  | readRsv7
  deriving DecidableEq, Repr

/-- The three independent field groups of the input vector (R49). -/
inductive Group where
  | control
  | timer
  | read
  deriving DecidableEq, Repr

/-- The field group an operation belongs to (R49, R50; the table's "group"). -/
def Instr.group : Instr → Group
  | .reset => .control
  | .sample _ => .control
  | .idle => .control
  | .tick => .timer
  | .readFset => .read
  | .readFmin => .read
  | .readFmax => .read
  | .readOut => .read
  | .readAmin => .read
  | .readAmax => .read
  | .readRsv6 => .read
  | .readRsv7 => .read

/-- What one input vector selects: "exactly one row of the control group, exactly one of the read
group and at most one of the timer group" (R50). -/
@[ext]
structure Selection where
  control : Instr
  timer   : Option Instr
  read    : Instr
  deriving DecidableEq, Repr

/-- The selected operations in the order in which they act: the READ first, since it sees the state
of before the edge (R62), then TICK, then the control operation (R63). -/
def Selection.ops (sel : Selection) : List Instr :=
  sel.read :: (sel.timer.toList ++ [sel.control])

/-- One line of the stimulus notation of R59: RESET alone, IDLE alone, or any combination of SAMPLE,
TICK and READ, each at most once. -/
inductive Line where
  | reset
  | idle
  | ops (sample : Option Raw) (tick : Bool) (read : Option Selector)
  deriving DecidableEq, Repr

/-- The pseudo-operations of R60. -/
inductive Pseudo where
  | idles (n : Nat)
  | ticks (n : Nat)
  | frame
  | round (s m x : Raw)
  | readAll
  deriving DecidableEq, Repr

end Sys2Proof
end

