-- ==== Sys2Proof/WellFormed.lean ====
section
/-!
DEFINITION. When a selection of operations is one that an input vector can make
(spec/30_encoding.md rules R49 and R50). Every single operation is well formed: its one operand is a
10-bit value, and every 10-bit value is legal (R42, R56).
-/

namespace Sys2Proof

/-- The control slot holds RESET, SAMPLE or IDLE (R49). -/
abbrev Selection.controlOk (sel : Selection) : Prop := sel.control.group = .control

/-- The timer slot is empty or holds TICK (R49). -/
abbrev Selection.timerOk (sel : Selection) : Prop := sel.timer = none ∨ sel.timer = some .tick

/-- The read slot holds one of the eight READ operations (R49). -/
abbrev Selection.readOk (sel : Selection) : Prop := sel.read.group = .read

/-- TICK needs `IV[15]` = 0, so RESET is never selected together with it (R49, R134). -/
abbrev Selection.resetOk (sel : Selection) : Prop := sel.control = .reset → sel.timer = none

/-- A selection that some input vector makes. -/
abbrev Selection.wf (sel : Selection) : Prop :=
  sel.controlOk ∧ sel.timerOk ∧ sel.readOk ∧ sel.resetOk

end Sys2Proof
end

