-- ==== Sys2Proof/Decode.lean ====
section
/-!
DEFINITION. Decoding of the input vector into the operations it selects, the codes of the enumerated
fields, the encoder and the rows of spec/opcode_table.json (spec/30_encoding.md rules R48 to R57).
-/

namespace Sys2Proof

/-! ### The fields of the input vector (R48) -/

/-- `rst` = IV[15]. -/
def InVec.rst (iv : InVec) : Bool := iv.getLsbD 15
/-- `sample_ready` = IV[14]. -/
def InVec.sampleReady (iv : InVec) : Bool := iv.getLsbD 14
/-- `adc_data` = IV[13:4], unsigned, not scaled and not shifted (R51). -/
def InVec.adcData (iv : InVec) : Raw := iv.extractLsb' 4 10
/-- `tick` = IV[3]. -/
def InVec.tick (iv : InVec) : Bool := iv.getLsbD 3
/-- `rd_sel` = IV[2:0]. -/
def InVec.rdSel (iv : InVec) : BitVec 3 := iv.extractLsb' 0 3

/-! ### Codes (R52, R54) -/

/-- The code of a channel (R52). -/
def Channel.code : Channel → BitVec 2
  | .set => 0
  | .min => 1
  | .max => 2

/-- The code of a read selector (R54). -/
def Selector.code : Selector → BitVec 3
  | .fset => 0
  | .fmin => 1
  | .fmax => 2
  | .out => 3
  | .amin => 4
  | .amax => 5
  | .rsv6 => 6
  | .rsv7 => 7

/-- The selector a 3-bit code names: every code is accepted (R36, R54). -/
def Selector.ofCode (c : BitVec 3) : Selector :=
  match c.toNat with
  | 0 => .fset
  | 1 => .fmin
  | 2 => .fmax
  | 3 => .out
  | 4 => .amin
  | 5 => .amax
  | 6 => .rsv6
  | _ => .rsv7

/-- The READ operation of a selector (R50). -/
def Selector.instr : Selector → Instr
  | .fset => .readFset
  | .fmin => .readFmin
  | .fmax => .readFmax
  | .out => .readOut
  | .amin => .readAmin
  | .amax => .readAmax
  | .rsv6 => .readRsv6
  | .rsv7 => .readRsv7

/-- The selector of a READ operation; selector 0 for every other operation (R55). -/
def Instr.selector : Instr → Selector
  | .reset => .fset
  | .sample _ => .fset
  | .idle => .fset
  | .tick => .fset
  | .readFset => .fset
  | .readFmin => .fmin
  | .readFmax => .fmax
  | .readOut => .out
  | .readAmin => .amin
  | .readAmax => .amax
  | .readRsv6 => .rsv6
  | .readRsv7 => .rsv7

/-! ### Decoding (R49) -/

/-- The control group: `rst` first, then `sample_ready` (R49). -/
def decodeControl (iv : InVec) : Instr :=
  if iv.rst then .reset else if iv.sampleReady then .sample iv.adcData else .idle

/-- The timer group: TICK when `rst` = 0 and `tick` = 1 (R49). -/
def decodeTimer (iv : InVec) : Option Instr :=
  if iv.rst then none else if iv.tick then some .tick else none

/-- The read group: always one READ, in reset cycles too (R49). -/
def decodeRead (iv : InVec) : Instr := (Selector.ofCode iv.rdSel).instr

/-- The operations one input vector selects. Total: "Every one of the 65536 input vectors is legal"
(R56). -/
def decode (iv : InVec) : Selection :=
  { control := decodeControl iv, timer := decodeTimer iv, read := decodeRead iv }

/-- Why a number given as a word is no input vector. No 16-bit vector is refused (R56). -/
inductive DecodeReject where
  /-- The word is longer than the one 16-bit format (R48). -/
  | longerThanVector
  /-- The value has bits above bit 15 (R48). -/
  | bitsAboveVector
  deriving DecidableEq, Repr

/-- The decoder on a number of `nbits` bits: bit 0 of `w` is IV[0]. A shorter word has zeros above. -/
def decodeWord (nbits w : Nat) : Except DecodeReject Selection :=
  if 16 < nbits then .error .longerThanVector
  else if 65536 ≤ w then .error .bitsAboveVector
  else .ok (decode (BitVec.ofNat 16 w))

/-- The ONE operation that stands for a selection where a single operation is asked for (log entry
10): the control operation if it is RESET or SAMPLE, else TICK if selected, else the READ if its
selector is not 0, else IDLE. So every canonical vector of R55 gives its own operation, but for
READ FSET alone, whose canonical vector 0x0000 is also that of IDLE. -/
def Selection.principal (sel : Selection) : Instr :=
  match sel.control with
  | .idle =>
    match sel.timer with
    | some t => t
    | none => if sel.read = .readFset then .idle else sel.read
  | c => c

/-- The operation the decoder reads from a word of the opcode table (see `Selection.principal`). -/
def decodeTableWord (nbits w : Nat) : Option Instr :=
  match decodeWord nbits w with
  | .ok sel => some sel.principal
  | .error _ => none

/-! ### Encoding (R48, R55, R59) -/

/-- The canonical vector of one operation: 0 in every field it ignores (R55). -/
def encode : Instr → InVec
  | .reset => 0x8000
  | .sample raw => 0x4000 ||| (raw.setWidth 16 <<< 4)
  | .idle => 0x0000
  | .tick => 0x0008
  | .readFset => 0x0000
  | .readFmin => 0x0001
  | .readFmax => 0x0002
  | .readOut => 0x0003
  | .readAmin => 0x0004
  | .readAmax => 0x0005
  | .readRsv6 => 0x0006
  | .readRsv7 => 0x0007

/-- The canonical vector of a selection: its operations' vectors OR-ed together (R59). -/
def encodeSelection (sel : Selection) : InVec :=
  encode sel.control ||| (sel.timer.elim 0 encode ||| encode sel.read)

/-- A vector with 0 in every field its operations ignore: `IV[14:3]` when `rst` = 1, `IV[13:4]` when
`sample_ready` = 0 (R55). -/
def InVec.canonical (iv : InVec) : InVec :=
  if iv.rst then iv &&& 0x8007 else if iv.sampleReady then iv else iv &&& 0x400F

/-! ### The rows of spec/opcode_table.json (R50) -/

/-- The row's "mask". -/
def Instr.mask : Instr → InVec
  | .reset => 0x8000
  | .sample _ => 0xC000
  | .idle => 0xC000
  | .tick => 0x8008
  | .readFset => 0x0007
  | .readFmin => 0x0007
  | .readFmax => 0x0007
  | .readOut => 0x0007
  | .readAmin => 0x0007
  | .readAmax => 0x0007
  | .readRsv6 => 0x0007
  | .readRsv7 => 0x0007

/-- The row's "match". -/
def Instr.pattern : Instr → InVec
  | .reset => 0x8000
  | .sample _ => 0x4000
  | .idle => 0x0000
  | .tick => 0x0008
  | .readFset => 0x0000
  | .readFmin => 0x0001
  | .readFmax => 0x0002
  | .readOut => 0x0003
  | .readAmin => 0x0004
  | .readAmax => 0x0005
  | .readRsv6 => 0x0006
  | .readRsv7 => 0x0007

end Sys2Proof
end

