-- ==== Sys2Proof/Config.lean ====
section
/-!
DEFINITION. What is fixed when the block is built (the constants of spec/00_scope.md rule R4 and the
one open parameter TICK_HZ of rule R5), and the free value that stands for the outside world driving
the inputs.
-/

namespace Sys2Proof.Config

/-- NCH, the number of channels (R4). -/
abbrev nch : Nat := 3
/-- K, the filter order: the shift amount of the filter bank (R4). -/
abbrev filterOrder : Nat := 4
/-- MAP_DIV1 (R4). -/
abbrev mapDiv1 : Nat := 4
/-- MAP_MUL (R4). -/
abbrev mapMul : Nat := 180
/-- MAP_DIV2 (R4). -/
abbrev mapDiv2 : Nat := 256
/-- ANGLE_MAX, the mapper's defensive clamp and the divisor of A2US (R4, R90). -/
abbrev angleMax : Nat := 180
/-- US_MIN, the pulse width at angle 0 in microseconds (R4). -/
abbrev usMin : Nat := 1000
/-- US_MAX, the pulse width at angle 180 in microseconds (R4). -/
abbrev usMax : Nat := 2000
/-- FRAME_HZ, the frame rate of the pulse output (R4). -/
abbrev frameHz : Nat := 50
/-- The microseconds in a second: the divisor of A2C and of PERIOD_TICKS (R91, R94). -/
abbrev usPerSec : Nat := 1000000
/-- The frame period in microseconds, 20000 at 50 Hz (R4, R94). -/
abbrev frameUs : Nat := usPerSec / frameHz
/-- The least permitted TICK_HZ (R5). -/
abbrev tickHzMin : Nat := 50
/-- The largest permitted TICK_HZ (R5). -/
abbrev tickHzMax : Nat := 3276800
/-- The default TICK_HZ, which every vector of spec/95_test_vectors.md uses (R5). -/
abbrev tickHzDefault : Nat := 2000000

/-- TICK_HZ, the tick frequency the block is built with: "OPEN: a natural number, argument of the
model, with 50 ≤ TICK_HZ ≤ 3276800" (R5). A value outside the range cannot be written down, which is
the treatment `refuse` of spec/93_implementation_defined.md U8. Log entry 3. -/
structure TickRate where
  hz    : Nat
  hz_ge : tickHzMin ≤ hz
  hz_le : hz ≤ tickHzMax
  deriving DecidableEq, Repr

/-- The default build (R5). -/
def defaultRate : TickRate := ⟨tickHzDefault, by decide, by decide⟩

/-- FREE VALUE, log entry 1: the input vector the outside world drives at clock cycle `n` when the
stimulus list of the state holds none. Nothing constrains it: every input vector is legal (R56), the
converter's answer is a free input (R109) and the reader may read at any time (R141). -/
opaque freeInput : Nat → InVec

end Sys2Proof.Config
end

