-- ==== Sys2Proof/Machine/State.lean ====
section
/-!
DEFINITION. The state of the machine: the eleven storage elements of spec/10_state.md rule R10
(`Regs`), and around them what stands for the outside at the ports (log entries 1, 3, 4 and 5). The
faults (none, R130), the refusals and the state after reset (R21, R145).
-/

namespace Sys2Proof.Machine

/-- The accumulator bank ACC[0..2], indexed by channel code: SET, MIN, MAX (R11, R52). -/
@[ext]
structure Accs where
  acc0 : Acc
  acc1 : Acc
  acc2 : Acc
  deriving DecidableEq, Repr

/-- The storage elements of the block, exactly those of R10. -/
@[ext]
structure Regs where
  /-- ACC[0], ACC[1], ACC[2] (R11) -/
  acc       : Accs
  /-- CH, the scheduler's cursor (R13) -/
  ch        : Channel
  /-- OUT_ANGLE (R12) -/
  outAngle  : Angle
  /-- MIN_ANGLE (R12) -/
  minAngle  : Angle
  /-- MAX_ANGLE (R12) -/
  maxAngle  : Angle
  /-- COMPARE (R15) -/
  compare   : Ticks
  /-- START (R17) -/
  start     : Bool
  /-- CNT (R18) -/
  cnt       : Ticks
  /-- CMP_ACTIVE (R18) -/
  cmpActive : Ticks
  deriving DecidableEq, Repr

/-- The machine: the block's registers, the build's TICK_HZ, and the outside at its ports. -/
@[ext]
structure State where
  /-- the block (R10) -/
  regs     : Regs
  /-- TICK_HZ, fixed when the block is built (R5); no operation changes it -/
  rate     : Config.TickRate
  /-- the input vectors the outside is going to drive, one per clock cycle, the next one first (R48,
  R59); log entry 1 -/
  inputs   : List InVec
  /-- the number of clock edges since the state after reset; it picks the free input of a cycle for
  which `inputs` holds no vector; log entry 1 -/
  cycle    : Nat
  /-- what `rd_data` showed in the cycle that the last edge ended, as the reader took it (R32, R62);
  log entry 4 -/
  rdData   : RdData
  /-- the `Request(c)` events emitted, the latest first (R111); log entry 5 -/
  requests : List Channel
  deriving DecidableEq, Repr

/-- Why the machine stops with a fault. There is no constructor: "The block raises no synchronous
exception. There are no exception causes and no cause codes" (R130). -/
inductive Fault where
  deriving DecidableEq, Repr

/-- Why an operation has no meaning. -/
inductive Refusal where
  /-- Raised by an arm of `exec` for an operation without a meaning. No arm of this model raises it.
  Safe: the model would stop where the hardware goes on. -/
  | notModelled (mnemonic : String)
  deriving DecidableEq, Repr

/-- The registers after a RESET operation at the default TICK_HZ (R21): COMPARE and CMP_ACTIVE are
A2C(0) = 2000. -/
def Regs.resetDefault : Regs :=
  { acc := ⟨0, 0, 0⟩, ch := .set, outAngle := 0, minAngle := 0, maxAngle := 0, compare := 2000,
    start := true, cnt := 0, cmpActive := 2000 }

/-- The machine right after the edge of a RESET operation (R21, R145): the registers at their reset
values, `Request(0)` emitted (R149), nothing known of the inputs to come. The build is the default
one (log entry 3). -/
def State.reset : State :=
  { regs := Regs.resetDefault, rate := Config.defaultRate, inputs := [], cycle := 0, rdData := 0,
    requests := [.set] }

end Sys2Proof.Machine
end

