-- ==== Sys2Proof/Machine/Operands.lean ====
section
/-!
DEFINITION. The operand forms: the accumulator that a channel indexes, the scaled sample, and the
zero extension of the read port (spec/10_state.md R11, spec/30_encoding.md R51,
spec/20_memory.md R32).
-/

namespace Sys2Proof.Machine

/-- ACC[c], read (R11). -/
def Accs.get (a : Accs) : Channel → Acc
  | .set => a.acc0
  | .min => a.acc1
  | .max => a.acc2

/-- ACC[c] <- v: the other two accumulators keep their values (R76). -/
def Accs.put (a : Accs) (c : Channel) (v : Acc) : Accs :=
  match c with
  | .set => { a with acc0 := v }
  | .min => { a with acc1 := v }
  | .max => { a with acc2 := v }

/-- `raw << K`, exact: the sample scaled by the filter itself, 0 to 16368 (R51, R70). -/
def scaled (raw : Raw) : Int := (raw.toNat : Int) * 2 ^ Config.filterOrder

/-- `zext_16` (R8, R32). -/
def zext16 {w : Nat} (v : BitVec w) : RdData := v.setWidth 16

end Sys2Proof.Machine
end

