-- ==== Sys2Proof/Machine/Flags.lean ====
section
/-!
DEFINITION. The block has no flag (spec/10_state.md rule R14). The conditions its rules test are
computed and consumed inside one operation and stored nowhere; they stand here.
-/

namespace Sys2Proof.Machine

/-- The sentinel test: the accumulator is exactly zero, "never initialized" (R70, R73). -/
def neverInitialized (acc : Acc) : Bool := acc == 0

/-- The miscalibration condition `max_angle < min_angle`; false at equality (R14, R85). -/
def crossed (lo hi : Angle) : Bool := hi.ult lo

/-- PERIOD_TICKS, the ticks of a frame: (20000 × TICK_HZ) / 1000000, floor (R5, R94). -/
def periodTicks (rate : Config.TickRate) : Nat := Config.frameUs * rate.hz / Config.usPerSec

/-- The tick that comes at this count ends the frame: CNT = PERIOD_TICKS - 1 (R95). -/
def atFrameEnd (rate : Config.TickRate) (cnt : Ticks) : Bool := cnt.toNat == periodTicks rate - 1

/-- The pulse is high: `CNT < CMP_ACTIVE`, an unsigned 16-bit comparison (R96). -/
def pulseHigh (cnt cmpActive : Ticks) : Bool := cnt.ult cmpActive

end Sys2Proof.Machine
end

