-- ==== Sys2Proof/Machine/Ops.lean ====
section
/-!
DEFINITION. The internal functions of the block (spec/30_encoding.md rule R50, second table), the
read primitive PortRead, and the named operations over the state that the meanings are made of.
There is no operation for taking an exception or returning from one: the block has none
(spec/60_exceptions.md rules R130, R135 and R136).
-/

namespace Sys2Proof.Machine

/-! ### The internal functions -/

/-- `a >>s n`: arithmetic shift right, floor(a / 2^n), rounding toward minus infinity (R8). -/
def asr (a : Int) (n : Nat) : Int := a / 2 ^ n

/-- FUPD(acc, raw): the next value of an accumulator (R70). The difference and the sum are exact and
narrowed to ACC_W = 32 bits at the end. -/
def fupd (acc : Acc) (raw : Raw) : Acc :=
  if neverInitialized acc then BitVec.ofInt 32 (scaled raw)
  else BitVec.ofInt 32 (acc.toInt + asr (scaled raw - acc.toInt) Config.filterOrder)

/-- FREAD(acc): `acc >> 4`, the filtered raw value, 10 bits (R71). An accumulator outside 0 to 16368
is held by no reachable state (R72); of its shifted value the low 10 bits are kept (log entry 8). -/
def fread (acc : Acc) : Raw := (acc.sshiftRight Config.filterOrder).setWidth 10

/-- MAP(raw): two floor divisions around a multiplication, in that order, and the defensive clamp
(R65). -/
def mapAngle (raw : Raw) : Angle :=
  BitVec.ofNat 8 (min (raw.toNat / Config.mapDiv1 * Config.mapMul / Config.mapDiv2) Config.angleMax)

/-- CUR(): the current channel (R80). -/
def cur (r : Regs) : Channel := r.ch

/-- ADV(c): the channel after c, SET → MIN → MAX → SET (R81). -/
def adv : Channel → Channel
  | .set => .min
  | .min => .max
  | .max => .set

/-- The triple that RESOLVE returns: the output angle and the bounds as arbitration leaves them
(R85). -/
@[ext]
structure Angles where
  out : Angle
  lo  : Angle
  hi  : Angle
  deriving DecidableEq, Repr

/-- Step 1 of RESOLVE: clamp to the upper bound (R85). -/
def clampHigh (set hi : Angle) : Angle := if hi.ult set then hi else set

/-- Step 2 of RESOLVE: clamp to the lower bound (R85). -/
def clampLow (s1 lo : Angle) : Angle := if s1.ult lo then lo else s1

/-- The midpoint of step 3: each bound halved with floor, then added (R85). -/
def midpoint (lo hi : Angle) : Angle := BitVec.ofNat 8 (hi.toNat / 2 + lo.toNat / 2)

/-- RESOLVE(set, lo, hi) (R85). Step 3 tests the bounds as given and wins over the clamps. -/
def resolve (set lo hi : Angle) : Angles :=
  if crossed lo hi then ⟨midpoint lo hi, midpoint lo hi, midpoint lo hi⟩
  else ⟨clampLow (clampHigh set hi) lo, lo, hi⟩

/-- A2US(angle): the pulse width in microseconds (R90). -/
def a2us (angle : Angle) : Nat :=
  angle.toNat * (Config.usMax - Config.usMin) / Config.angleMax + Config.usMin

/-- A2C(angle): the compare value in ticks, one exact product and one floor division (R91). -/
def a2c (rate : Config.TickRate) (angle : Angle) : Ticks :=
  BitVec.ofNat 16 (a2us angle * rate.hz / Config.usPerSec)

/-! ### The read primitive -/

/-- PortRead(sel): a pure function of the registers (R32). -/
def portRead (sel : Selector) (r : Regs) : RdData :=
  match sel with
  | .fset => zext16 (fread (r.acc.get .set))
  | .fmin => zext16 (fread (r.acc.get .min))
  | .fmax => zext16 (fread (r.acc.get .max))
  | .out => zext16 r.outAngle
  | .amin => zext16 r.minAngle
  | .amax => zext16 r.maxAngle
  | .rsv6 => 0
  | .rsv7 => 0

/-! ### Register updates -/

/-- Every register at its reset value (R21, R145). -/
def Regs.atReset (rate : Config.TickRate) : Regs :=
  { acc := ⟨0, 0, 0⟩, ch := .set, outAngle := 0, minAngle := 0, maxAngle := 0,
    compare := a2c rate 0, start := true, cnt := 0, cmpActive := a2c rate 0 }

/-- Steps 3 and 4 of the transition: all three angles from the accumulators, then arbitration
(R105). -/
def arbitrate (a : Accs) : Angles :=
  resolve (mapAngle (fread (a.get .set))) (mapAngle (fread (a.get .min)))
    (mapAngle (fread (a.get .max)))

/-- The accumulator bank after the update of the current channel: steps 1 and 2 (R105). -/
def nextAccs (raw : Raw) (r : Regs) : Accs := r.acc.put (cur r) (fupd (r.acc.get (cur r)) raw)

/-- The registers after the transition on a sample-ready event. All right-hand sides are values of
before the edge (R46, R105). -/
def Regs.transition (rate : Config.TickRate) (raw : Raw) (r : Regs) : Regs :=
  { r with
    acc      := nextAccs raw r
    outAngle := (arbitrate (nextAccs raw r)).out
    minAngle := (arbitrate (nextAccs raw r)).lo
    maxAngle := (arbitrate (nextAccs raw r)).hi
    compare  := a2c rate (arbitrate (nextAccs raw r)).out
    ch       := adv (cur r)
    start    := true }

/-- The registers after one timer tick (R95). -/
def Regs.advanceTimer (rate : Config.TickRate) (r : Regs) : Regs :=
  if atFrameEnd rate r.cnt then { r with cnt := 0, cmpActive := r.compare }
  else { r with cnt := r.cnt + 1 }

/-! ### Named operations over the state -/

/-- Write the registers. -/
def State.setRegs (s : State) (r : Regs) : State := { s with regs := r }

/-- `rd_data <- v`, as the reader takes it: no register of the block changes (R34). -/
def State.showRead (s : State) (v : RdData) : State := { s with rdData := v }

/-- `emit Request(c)` (R111). -/
def State.emit (s : State) (c : Channel) : State := { s with requests := c :: s.requests }

/-- The input vector of the coming clock edge: the next one listed, or, where none is listed, a free
one (log entry 1). -/
def State.nextVector (s : State) : InVec :=
  match s.inputs with
  | iv :: _ => iv
  | [] => Config.freeInput s.cycle

/-- The clock edge has taken its input vector. -/
def State.consume (s : State) : State := { s with inputs := s.inputs.tail, cycle := s.cycle + 1 }

/-- The outside is going to drive these vectors next, and then anything. -/
def State.feed (s : State) (ivs : List InVec) : State := { s with inputs := ivs }

end Sys2Proof.Machine
end

