-- ==== Sys2Proof/Machine/Accessors.lean ====
section
/-!
DEFINITION. The meanings of the eight READ operations (spec/46_read_accessors.md rules R120 to R126).
Each writes no register of the block (R34).
-/

namespace Sys2Proof.Machine

/-- What every READ does: the value of its selector is on `rd_data` (R32). -/
def readPort (sel : Selector) (s : State) : Host.Outcome State Fault Refusal :=
  .next (s.showRead (portRead sel s.regs))

/-- READ FSET: the filtered raw value of channel SET (R120). -/
def execReadFset (s : State) : Host.Outcome State Fault Refusal := readPort .fset s

/-- READ FMIN: the filtered raw value of channel MIN (R121). -/
def execReadFmin (s : State) : Host.Outcome State Fault Refusal := readPort .fmin s

/-- READ FMAX: the filtered raw value of channel MAX (R122). -/
def execReadFmax (s : State) : Host.Outcome State Fault Refusal := readPort .fmax s

/-- READ OUT: the resolved output angle (R123). -/
def execReadOut (s : State) : Host.Outcome State Fault Refusal := readPort .out s

/-- READ AMIN: the lower bound angle as the last arbitration left it (R124). -/
def execReadAmin (s : State) : Host.Outcome State Fault Refusal := readPort .amin s

/-- READ AMAX: the upper bound angle as the last arbitration left it (R125). -/
def execReadAmax (s : State) : Host.Outcome State Fault Refusal := readPort .amax s

/-- READ RSV6: a reserved selector, 0 and no error (R126). -/
def execReadRsv6 (s : State) : Host.Outcome State Fault Refusal := readPort .rsv6 s

/-- READ RSV7: a reserved selector, 0 and no error (R126). -/
def execReadRsv7 (s : State) : Host.Outcome State Fault Refusal := readPort .rsv7 s

end Sys2Proof.Machine
end

