-- ==== Sys2Proof/Machine/Acquisition.lean ====
section
/-!
DEFINITION. The meanings of the Acquisition Controller's operations, SAMPLE and IDLE
(spec/45_acquisition_controller.md rules R105 and R108).
-/

namespace Sys2Proof.Machine

/-- SAMPLE raw: the transition, and the request for a conversion on the new channel (R105, R111). It
is taken in every state: there is no arming, no enable and no mask (R113). -/
def execSample (raw : Raw) (s : State) : Host.Outcome State Fault Refusal :=
  .next ((s.setRegs (s.regs.transition s.rate raw)).emit (adv (cur s.regs)))

/-- IDLE: START <- 0, and nothing else (R108). -/
def execIdle (s : State) : Host.Outcome State Fault Refusal :=
  .next (s.setRegs { s.regs with start := false })

end Sys2Proof.Machine
end

