-- ==== Sys2Proof/Machine/Reset.lean ====
section
/-! DEFINITION. The meaning of RESET (spec/70_reset_and_hazards.md rules R145 and R149). -/

namespace Sys2Proof.Machine

/-- RESET: every register at its reset value, and `Request(0)` (R145, R149). -/
def execReset (s : State) : Host.Outcome State Fault Refusal :=
  .next ((s.setRegs (Regs.atReset s.rate)).emit .set)

end Sys2Proof.Machine
end

