-- ==== Sys2Proof/Machine/Timer.lean ====
section
/-! DEFINITION. The meaning of TICK (spec/44_pulse_generator.md rule R95). -/

namespace Sys2Proof.Machine

/-- TICK: advance the frame timer by one tick (R95). -/
def execTick (s : State) : Host.Outcome State Fault Refusal :=
  .next (s.setRegs (s.regs.advanceTimer s.rate))

end Sys2Proof.Machine
end

