-- ==== Sys2Proof/Machine/Dispatch.lean ====
section
/-! DEFINITION. One arm per operation: the host reads this file arm by arm. -/

namespace Sys2Proof.Machine

-- The effect of one operation on the state. A clock edge runs the operations its input vector
-- selects, one after the other (Machine/Cycle.lean).
def exec (i : Instr) (s : State) : Host.Outcome State Fault Refusal :=
  match i with
  | .reset => Sys2Proof.Machine.execReset s
  | .sample raw => Sys2Proof.Machine.execSample raw s
  | .idle => Sys2Proof.Machine.execIdle s
  | .tick => Sys2Proof.Machine.execTick s
  | .readFset => Sys2Proof.Machine.execReadFset s
  | .readFmin => Sys2Proof.Machine.execReadFmin s
  | .readFmax => Sys2Proof.Machine.execReadFmax s
  | .readOut => Sys2Proof.Machine.execReadOut s
  | .readAmin => Sys2Proof.Machine.execReadAmin s
  | .readAmax => Sys2Proof.Machine.execReadAmax s
  | .readRsv6 => Sys2Proof.Machine.execReadRsv6 s
  | .readRsv7 => Sys2Proof.Machine.execReadRsv7 s

end Sys2Proof.Machine
end

