-- ==== Sys2Proof/Machine/Cycle.lean ====
section
/-!
DEFINITION. One clock edge: the operations that its input vector selects, run in the order of
spec/30_encoding.md rules R62 and R63.
-/

namespace Sys2Proof.Machine

/-- Run operations one after the other, stopping at the first that gives no next state. -/
def runOps : List Instr → State → Host.Outcome State Fault Refusal
  | [], s => .next s
  | i :: is, s =>
    match exec i s with
    | .next t => runOps is t
    | .fault f => .fault f
    | .refused r => .refused r

/-- One clock edge at which the inputs are `iv`: READ, then TICK if selected, then RESET, SAMPLE or
IDLE (R49, R62, R63). -/
def runVector (iv : InVec) (s : State) : Host.Outcome State Fault Refusal := runOps (decode iv).ops s

/-- Drive a vector at the next clock edge, in the place of the one listed for it (log entry 2). -/
def State.driveNext (s : State) (iv : InVec) : State := { s with inputs := iv :: s.inputs.tail }

end Sys2Proof.Machine
end

