-- ==== Sys2Proof/Machine/Step.lean ====
section
/-!
DEFINITION. One step of the machine is one rising edge of `clk` (spec/30_encoding.md rules R45 and
R46).
-/

namespace Sys2Proof.Machine

/-- One rising edge: take the input vector of the cycle and run the operations it selects. -/
def step (s : State) : Host.Outcome State Fault Refusal := runVector s.nextVector s.consume

/-- The state in which the next clock edge sees the word `w` as its input vector: the block's program
is the sequence of its input vectors (spec/00_scope.md section 5.4). -/
def State.withFetchWord (s : State) (_nbits w : Nat) : State := s.driveNext (BitVec.ofNat 16 w)

end Sys2Proof.Machine
end

