-- ==== Sys2Proof/Machine/Stimulus.lean ====
section
/-! DEFINITION. The stimulus notation (spec/30_encoding.md rules R59 and R60). -/

namespace Sys2Proof.Machine

/-- What `SAMPLE n` ORs into the vector of a line: `0x4000 | (n << 4)` (R59). -/
def sampleBits : Option Raw → InVec
  | none => 0
  | some n => 0x4000 ||| (n.setWidth 16 <<< 4)

/-- What `READ sel` ORs into the vector of a line: the selector code (R59). -/
def readBits : Option Selector → InVec
  | none => 0
  | some s => s.code.setWidth 16

/-- The vector of a stimulus line: start from 0x0000 and OR in what the line names (R59). -/
def assemble : Line → InVec
  | .reset => 0x8000
  | .idle => 0x0000
  | .ops sample tick read => sampleBits sample ||| ((if tick then 0x0008 else 0x0000) ||| readBits read)

/-- The lines a pseudo-operation stands for (R60). -/
def expand (rate : Config.TickRate) : Pseudo → List Line
  | .idles n => List.replicate n .idle
  | .ticks n => List.replicate n (.ops none true none)
  | .frame => List.replicate (periodTicks rate) (.ops none true none)
  | .round s m x =>
    [.ops (some s) false none, .ops (some m) false none, .ops (some x) false none]
  | .readAll =>
    [.fset, .fmin, .fmax, .out, .amin, .amax].map (fun s => .ops none false (some s))

end Sys2Proof.Machine
end

