-- ==== Sys2Proof/Machine/Outputs.lean ====
section
/-!
DEFINITION. The output ports (spec/30_encoding.md rules R47 and R58, spec/20_memory.md rule R43,
spec/44_pulse_generator.md rule R96).
-/

namespace Sys2Proof.Machine

/-- The outputs of one clock cycle (R58). -/
structure Outputs where
  adcChannel : BitVec 2
  adcStart   : Bool
  pwmCompare : Ticks
  pwmOut     : Bool
  outAngle   : Angle
  rdData     : RdData
  deriving DecidableEq, Repr

/-- The outputs of a cycle: functions of the registers of that cycle, `rd_data` also of the `rd_sel`
of the same cycle (R58). -/
def Regs.outputs (r : Regs) (rdSel : BitVec 3) : Outputs :=
  { adcChannel := r.ch.code
    adcStart   := r.start
    pwmCompare := r.compare
    pwmOut     := pulseHigh r.cnt r.cmpActive
    outAngle   := r.outAngle
    rdData     := portRead (Selector.ofCode rdSel) r }

/-- The converter takes a request "at each rising edge at which it samples `adc_start` = 1 with
`rst` = 0" (R112): `r` is the block just before the edge, `iv` the inputs at it. -/
def Regs.requestTaken (r : Regs) (iv : InVec) : Bool := r.start && !iv.rst

end Sys2Proof.Machine
end

