-- ==== Sys2Proof/Safety.lean ====
section
/-!
DEFINITION. The terms that claims about runs use: the invariants of the reachable states
(spec/10_state.md rule R22), runs on a given stimulus, and which registers belong to the pipeline and
which to the frame timer (spec/10_state.md rule R20, spec/44_pulse_generator.md rule R94).
-/

namespace Sys2Proof.Machine

/-- The five items of R22. Item 2, that CH is 0, 1 or 2, is the type of CH. -/
structure Regs.Inv (rate : Config.TickRate) (r : Regs) : Prop where
  acc_range : ∀ c, 0 ≤ (r.acc.get c).toInt ∧ (r.acc.get c).toInt ≤ 16368
  min_le_out : r.minAngle.toNat ≤ r.outAngle.toNat
  out_le_max : r.outAngle.toNat ≤ r.maxAngle.toNat
  max_le : r.maxAngle.toNat ≤ 179
  compare_eq : r.compare = a2c rate r.outAngle
  cnt_le : r.cnt.toNat ≤ periodTicks rate - 1
  cmpActive_eq : ∃ a : Angle, a.toNat ≤ 179 ∧ r.cmpActive = a2c rate a

/-- The machine's invariant: R22, and that the latest request was for the channel that CH names: the
cursor is "the channel the outstanding conversion request was made for" (R80, R111). -/
structure State.Inv (s : State) : Prop where
  regs_inv : s.regs.Inv s.rate
  last_request : s.requests.head? = some s.regs.ch

/-- One clock edge per vector of the list, the vectors driven in order. -/
def runOn (ivs : List InVec) (s : State) : Host.Outcome State Fault Refusal :=
  Sys2Proof.core.run ivs.length (s.feed ivs)

/-- The registers agree outside the frame timer, CNT and CMP_ACTIVE (R20, R94). -/
def Regs.samePipeline (r r' : Regs) : Prop :=
  r.acc = r'.acc ∧ r.ch = r'.ch ∧ r.outAngle = r'.outAngle ∧ r.minAngle = r'.minAngle ∧
    r.maxAngle = r'.maxAngle ∧ r.compare = r'.compare ∧ r.start = r'.start

/-- The vector selects RESET (R49). -/
def selectsReset (iv : InVec) : Bool := iv.getLsbD 15

/-- The vector selects SAMPLE (R49). -/
def selectsSample (iv : InVec) : Bool := !iv.getLsbD 15 && iv.getLsbD 14

/-- The vector selects TICK (R49). -/
def selectsTick (iv : InVec) : Bool := !iv.getLsbD 15 && iv.getLsbD 3

end Sys2Proof.Machine
end

