-- ==== Sys2Proof/Certificates/Slice0/Obligations.lean ====
section
/-!
DEFINITION. The statements for the provers, each a proposition about the model that formalises a rule
of spec/ (OBLIGATIONS.json says which). Bits of an input vector are named by number, as
spec/30_encoding.md rule R48 numbers them, so that a statement does not lean on the decoder's own
field names.
-/

open Sys2Proof Sys2Proof.Machine

/-! ### Encoding and decoding -/

/-- R48, R49, R59, vectors of spec/95_test_vectors.md: words written out bit by bit, one for each
family, select the operations they stand for. -/
def Obligations.WordsDecodeAsSpelled : Prop :=
  decode 0b1000000000000000 = ⟨.reset, none, .readFset⟩ ∧
  decode 0b0110000000000011 = ⟨.sample 512, none, .readOut⟩ ∧
  decode 0b0111111111111000 = ⟨.sample 1023, some .tick, .readFset⟩ ∧
  decode 0b0000000000001101 = ⟨.idle, some .tick, .readAmax⟩ ∧
  decode 0b0011111111110000 = ⟨.idle, none, .readFset⟩ ∧
  decode 0b1111111111111111 = ⟨.reset, none, .readRsv7⟩

/-- R49: the three field groups. The control row is the one whose mask and match the vector meets,
with the operand IV[13:4]; TICK exactly under mask 0x8008, match 0x0008; a READ always, by IV[2:0].
At a RESET edge IV[14:3] have no effect, and `rd_data` shows the state of before the edge. -/
def Obligations.VectorSelectsByFieldGroups : Prop :=
  (∀ iv : InVec,
    ((decode iv).control = .reset ↔ iv &&& 0x8000 = 0x8000) ∧
    (∀ raw : Raw, (decode iv).control = .sample raw ↔
      iv &&& 0xC000 = 0x4000 ∧ iv.extractLsb' 4 10 = raw) ∧
    ((decode iv).control = .idle ↔ iv &&& 0xC000 = 0x0000) ∧
    ((decode iv).timer = some .tick ↔ iv &&& 0x8008 = 0x0008) ∧
    ((decode iv).timer = none ↔ iv &&& 0x8008 ≠ 0x0008) ∧
    ((decode iv).read = .readFset ↔ iv &&& 0x0007 = 0) ∧
    ((decode iv).read = .readFmin ↔ iv &&& 0x0007 = 1) ∧
    ((decode iv).read = .readFmax ↔ iv &&& 0x0007 = 2) ∧
    ((decode iv).read = .readOut ↔ iv &&& 0x0007 = 3) ∧
    ((decode iv).read = .readAmin ↔ iv &&& 0x0007 = 4) ∧
    ((decode iv).read = .readAmax ↔ iv &&& 0x0007 = 5) ∧
    ((decode iv).read = .readRsv6 ↔ iv &&& 0x0007 = 6) ∧
    ((decode iv).read = .readRsv7 ↔ iv &&& 0x0007 = 7)) ∧
  (∀ (s : State) (iv iv' : InVec) (rest : List InVec),
    iv &&& 0x8007 = iv' &&& 0x8007 → iv.getLsbD 15 = true →
    step (s.feed (iv :: rest)) = step (s.feed (iv' :: rest))) ∧
  (∀ (s : State) (iv : InVec) (rest : List InVec), ∃ t, step (s.feed (iv :: rest)) = .next t ∧
    t.rdData = portRead (Selector.ofCode (iv.extractLsb' 0 3)) s.regs)

/-- Decode and encode agree, over every selection an input vector can make and every vector: no bit
that an operation uses is dropped, and the encoder writes 0 in every ignored field (R48, R49, R55). -/
def Obligations.SelectionsRoundTrip : Prop :=
  (∀ sel : Selection, sel.wf → decode (encodeSelection sel) = sel) ∧
  (∀ iv : InVec, (decode iv).wf ∧ encodeSelection (decode iv) =
    if iv.getLsbD 15 then iv &&& 0x8007 else if iv.getLsbD 14 then iv else iv &&& 0x400F)

/-- R55: fields an operation ignores may hold any value; the canonical vectors; a vector with
`rd_sel` = 0 performs READ FSET, which changes no register. -/
def Obligations.IgnoredFieldsHaveNoEffect : Prop :=
  (∀ (s : State) (iv iv' : InVec) (rest : List InVec),
    iv &&& 0x8007 = iv' &&& 0x8007 → iv.getLsbD 15 = true →
    step (s.feed (iv :: rest)) = step (s.feed (iv' :: rest))) ∧
  (∀ (s : State) (iv iv' : InVec) (rest : List InVec),
    iv &&& 0xC00F = iv' &&& 0xC00F → iv.getLsbD 14 = false →
    step (s.feed (iv :: rest)) = step (s.feed (iv' :: rest))) ∧
  encode .reset = 0x8000 ∧ encode .idle = 0x0000 ∧ encode .tick = 0x0008 ∧
  (∀ raw : Raw, encode (.sample raw) = 0x4000 ||| (raw.setWidth 16 <<< 4)) ∧
  (∀ sel : Selector, encode sel.instr = sel.code.setWidth 16) ∧
  (∀ iv : InVec, iv.extractLsb' 0 3 = 0 → (decode iv).read = .readFset) ∧
  (∀ s : State, ∃ t, exec .readFset s = .next t ∧ t.regs = s.regs)

/-- THE MODEL'S CHOICE, log entry 10: where one operation stands for a vector, every canonical vector
gives its own operation, but READ FSET's 0x0000, which gives IDLE; a word longer than 16 bits is no
input vector (R48). -/
def Obligations.CanonicalVectorNamesItsOperation : Prop :=
  (∀ i : Instr, i ≠ .readFset → decodeTableWord 16 (encode i).toNat = some i) ∧
  decodeTableWord 16 (encode .readFset).toNat = some .idle ∧
  (∀ nbits w : Nat, 16 < nbits ∨ 65536 ≤ w → decodeTableWord nbits w = none)

/-- R59: a stimulus line assembles into the vector that selects exactly what it names; R60: what the
pseudo-operations stand for. -/
def Obligations.StimulusLinesAssemble : Prop :=
  decode (assemble .reset) = ⟨.reset, none, .readFset⟩ ∧
  decode (assemble .idle) = ⟨.idle, none, .readFset⟩ ∧
  (∀ (n : Option Raw) (t : Bool) (sel : Option Selector),
    decode (assemble (.ops n t sel)) =
      ⟨(match n with | some raw => .sample raw | none => .idle),
       (if t then some .tick else none),
       (match sel with | some c => c.instr | none => .readFset)⟩) ∧
  (∀ (rate : Config.TickRate) (n : Nat) (s m x : Raw),
    (expand rate (.idles n)).map assemble = List.replicate n 0x0000 ∧
    (expand rate (.ticks n)).map assemble = List.replicate n 0x0008 ∧
    (expand rate .frame).map assemble = List.replicate (periodTicks rate) 0x0008 ∧
    (expand rate (.round s m x)).map assemble =
      [encode (.sample s), encode (.sample m), encode (.sample x)] ∧
    (expand rate .readAll).map assemble = [0, 1, 2, 3, 4, 5])

/-! ### One step -/

/-- A step runs the decoded operations: the next listed vector, or a free one where none is listed
(log entry 1), READ first, then TICK if selected, then the control operation (R46, R62, R63). -/
def Obligations.StepRunsSelectedOperations : Prop :=
  (∀ (s : State) (iv : InVec) (rest : List InVec), s.inputs = iv :: rest →
    step s = runOps ((decode iv).read :: ((decode iv).timer.toList ++ [(decode iv).control]))
      { s with inputs := rest, cycle := s.cycle + 1 }) ∧
  (∀ s : State, s.inputs = [] →
    step s = runOps (decode (Config.freeInput s.cycle)).ops { s with cycle := s.cycle + 1 }) ∧
  (∀ s : State, runOps [] s = .next s) ∧
  (∀ (i : Instr) (is : List Instr) (s t : State),
    exec i s = .next t → runOps (i :: is) s = runOps is t)

/-- R130: no fault and no refusal: every operation and every clock edge, on every state (not only the
reachable ones), yields a next state, and there is no cause of a fault. -/
def Obligations.EveryStepAnswersNext : Prop :=
  (∀ (i : Instr) (s : State), ∃ t, exec i s = .next t) ∧
  (∀ s : State, ∃ t, step s = .next t) ∧
  (Fault → False)

/-- R46 and R134: at one edge the next value of every register is computed from the values of before
the edge and the inputs sampled at it; RESET has priority over SAMPLE, IDLE and TICK; SAMPLE or IDLE
and, independently, TICK or no timer operation; the READ sees the state of before the edge. -/
def Obligations.EdgeUpdatesTogether : Prop :=
  ∀ (s : State) (iv : InVec) (rest : List InVec), s.inputs = iv :: rest →
    ∃ t, step s = .next t ∧ t.inputs = rest ∧ t.cycle = s.cycle + 1 ∧ t.rate = s.rate ∧
      t.rdData = portRead (Selector.ofCode (iv.extractLsb' 0 3)) s.regs ∧
      (selectsReset iv = true → t.regs = Regs.atReset s.rate ∧ t.requests = .set :: s.requests) ∧
      (selectsReset iv = false →
        (iv.getLsbD 3 = true →
          t.regs.cnt = (if s.regs.cnt.toNat = periodTicks s.rate - 1 then 0 else s.regs.cnt + 1) ∧
          t.regs.cmpActive = (if s.regs.cnt.toNat = periodTicks s.rate - 1 then s.regs.compare
            else s.regs.cmpActive)) ∧
        (iv.getLsbD 3 = false →
          t.regs.cnt = s.regs.cnt ∧ t.regs.cmpActive = s.regs.cmpActive) ∧
        (iv.getLsbD 14 = true →
          t.regs.acc = s.regs.acc.put s.regs.ch
            (fupd (s.regs.acc.get s.regs.ch) (iv.extractLsb' 4 10)) ∧
          t.regs.outAngle = (arbitrate t.regs.acc).out ∧
          t.regs.minAngle = (arbitrate t.regs.acc).lo ∧
          t.regs.maxAngle = (arbitrate t.regs.acc).hi ∧
          t.regs.compare = a2c s.rate t.regs.outAngle ∧
          t.regs.ch = adv s.regs.ch ∧ t.regs.start = true ∧
          t.requests = adv s.regs.ch :: s.requests) ∧
        (iv.getLsbD 14 = false →
          t.regs.acc = s.regs.acc ∧ t.regs.outAngle = s.regs.outAngle ∧
          t.regs.minAngle = s.regs.minAngle ∧ t.regs.maxAngle = s.regs.maxAngle ∧
          t.regs.compare = s.regs.compare ∧ t.regs.ch = s.regs.ch ∧ t.regs.start = false ∧
          t.requests = s.requests))

/-- R63, derived by the spec from R46, R95 and R105: SAMPLE and TICK in one vector act as TICK and
then SAMPLE; the two write disjoint registers; at a frame boundary the new frame uses the old compare
value. -/
def Obligations.TickThenSample : Prop :=
  (∀ (s : State) (iv : InVec) (rest : List InVec),
    selectsSample iv = true → selectsTick iv = true →
    ∃ a b t, exec .tick s = .next a ∧ exec (.sample (iv.extractLsb' 4 10)) a = .next b ∧
      step (s.feed (iv :: rest)) = .next t ∧ t.regs = b.regs ∧ t.requests = b.requests ∧
      (s.regs.cnt.toNat = periodTicks s.rate - 1 → t.regs.cmpActive = s.regs.compare)) ∧
  (∀ s : State, ∃ a, exec .tick s = .next a ∧ a.regs.samePipeline s.regs) ∧
  (∀ (s : State) (raw : Raw), ∃ b, exec (.sample raw) s = .next b ∧
    b.regs.cnt = s.regs.cnt ∧ b.regs.cmpActive = s.regs.cmpActive)

/-- R61, derived by the spec from R49, R63 and R112: the cycle-level edge is equivalent to stepping on
the events it carries, an IDLE with no TICK being none, but for START, which only the clocked reading
has. -/
def Obligations.EventLevelReading : Prop :=
  ∀ (s : State) (iv : InVec) (rest : List InVec), s.inputs = iv :: rest →
    ∃ t u, step s = .next t ∧
      runOps ((decode iv).ops.filter (· ≠ .idle)) { s with inputs := rest, cycle := s.cycle + 1 } =
        .next u ∧
      t = { u with regs := { u.regs with start := iv.getLsbD 15 || iv.getLsbD 14 } }

/-- R17: START <- rst OR sample_ready at every edge, it drives `adc_start`, and no rule reads it: the
edge after is the same whatever it held. -/
def Obligations.StartFollowsResetOrSample : Prop :=
  (∀ (s : State) (iv : InVec) (rest : List InVec) (sel : BitVec 3), s.inputs = iv :: rest →
    ∃ t, step s = .next t ∧ t.regs.start = (iv.getLsbD 15 || iv.getLsbD 14) ∧
      (t.regs.outputs sel).adcStart = t.regs.start) ∧
  (∀ (s : State) (b : Bool), step { s with regs := { s.regs with start := b } } = step s)

/-- R110: the channel index and the request change at the same edge, and the index stays as it is
through every edge that is neither SAMPLE nor RESET. -/
def Obligations.ChannelHeldUntilNextRequest : Prop :=
  (∀ (s : State) (iv : InVec) (rest : List InVec), s.inputs = iv :: rest →
    selectsReset iv = true ∨ selectsSample iv = true →
    ∃ t, step s = .next t ∧ t.regs.start = true ∧ t.requests = t.regs.ch :: s.requests) ∧
  (∀ (ivs : List InVec) (s : State) (sel : BitVec 3),
    (∀ iv ∈ ivs, selectsReset iv = false ∧ selectsSample iv = false) →
    ∃ t, runOn ivs s = .next t ∧ (t.regs.outputs sel).adcChannel = s.regs.ch.code ∧
      t.requests = s.requests)

/-- R112: `adc_start` is 1 in the cycle that follows a RESET or SAMPLE edge and 0 in the cycle that
follows an IDLE edge; the converter takes a request at each edge with `adc_start` = 1 and `rst` = 0,
so none while `rst` is held, and one per transition at consecutive SAMPLE edges. -/
def Obligations.StrobeLastsOneCycle : Prop :=
  ∀ (ivs : List InVec) (last next : InVec) (s : State) (sel : BitVec 3),
    ∃ t, runOn (ivs ++ [last]) s = .next t ∧
      (t.regs.outputs sel).adcStart = (last.getLsbD 15 || last.getLsbD 14) ∧
      t.regs.requestTaken next =
        ((last.getLsbD 15 || last.getLsbD 14) && !next.getLsbD 15)

/-- R111: exactly one request per sample-ready event taken, plus one per reset, and no other, over
every run from every state; Request(0) at RESET, Request(ADV(CH)) at SAMPLE. -/
def Obligations.OneRequestPerEvent : Prop :=
  (∀ (ivs : List InVec) (s : State), ∃ t, runOn ivs s = .next t ∧
    t.requests.length = s.requests.length + ivs.countP (fun iv => selectsSample iv)
      + ivs.countP (fun iv => selectsReset iv)) ∧
  (∀ s : State, ∃ t, exec .reset s = .next t ∧ t.requests = .set :: s.requests) ∧
  (∀ (s : State) (raw : Raw), ∃ t, exec (.sample raw) s = .next t ∧
    t.requests = adv s.regs.ch :: s.requests)

/-! ### Reading -/

/-- R120, R121, R122: the filtered values, zero-extended, with nothing else of the state changed; 0
after reset and, channel by channel, until a SAMPLE takes in a non-zero sample for it; the sample itself
right after a bootstrap update; never above 1023. -/
def Obligations.FilteredValuesAreRead : Prop :=
  (∀ s : State,
    exec .readFset s = .next { s with rdData := (fread s.regs.acc.acc0).setWidth 16 } ∧
    exec .readFmin s = .next { s with rdData := (fread s.regs.acc.acc1).setWidth 16 } ∧
    exec .readFmax s = .next { s with rdData := (fread s.regs.acc.acc2).setWidth 16 }) ∧
  (∀ acc : Acc, ((fread acc).setWidth 16 : RdData).toNat ≤ 1023) ∧
  (∀ s : State, ∃ t, exec .reset s = .next t ∧ ∀ c, t.regs.acc.get c = 0) ∧
  (∀ (s : State) (iv : InVec) (rest : List InVec) (c : Channel), s.inputs = iv :: rest →
    s.regs.acc.get c = 0 →
    (selectsSample iv = true → s.regs.ch = c → iv.extractLsb' 4 10 = 0) →
    ∃ t, step s = .next t ∧ t.regs.acc.get c = 0) ∧
  fread 0 = 0 ∧ (∀ raw : Raw, fread (fupd 0 raw) = raw) ∧
  fread 8703 = 543 ∧ fread 1600 = 100 ∧ fread 16368 = 1023

/-- R123, R124, R125: the angles, zero-extended, with nothing else of the state changed, 0 to 179
where the invariant holds; the output angle is on the port `out_angle` too, and is 0 after reset and
after the first transition; the bounds are MAP of the filtered values when a SAMPLE finds them in order
and the collapse midpoint when it finds them crossed, where AMIN is then not MAP of FMIN. -/
def Obligations.AnglesAreRead : Prop :=
  (∀ (s : State) (sel : BitVec 3),
    exec .readOut s = .next { s with rdData := s.regs.outAngle.setWidth 16 } ∧
    exec .readAmin s = .next { s with rdData := s.regs.minAngle.setWidth 16 } ∧
    exec .readAmax s = .next { s with rdData := s.regs.maxAngle.setWidth 16 } ∧
    (s.regs.outputs sel).outAngle = s.regs.outAngle ∧
    (s.regs.Inv s.rate → s.regs.outAngle.toNat ≤ 179 ∧ s.regs.minAngle.toNat ≤ 179 ∧
      s.regs.maxAngle.toNat ≤ 179)) ∧
  (∀ (s : State) (raw : Raw), ∃ t, exec (.sample raw) s = .next t ∧
    ((mapAngle (fread t.regs.acc.acc1)).toNat ≤ (mapAngle (fread t.regs.acc.acc2)).toNat →
      t.regs.minAngle = mapAngle (fread t.regs.acc.acc1) ∧
      t.regs.maxAngle = mapAngle (fread t.regs.acc.acc2)) ∧
    ((mapAngle (fread t.regs.acc.acc2)).toNat < (mapAngle (fread t.regs.acc.acc1)).toNat →
      t.regs.minAngle.toNat = (mapAngle (fread t.regs.acc.acc2)).toNat / 2
        + (mapAngle (fread t.regs.acc.acc1)).toNat / 2 ∧
      t.regs.maxAngle = t.regs.minAngle ∧ t.regs.outAngle = t.regs.minAngle ∧
      t.regs.minAngle ≠ mapAngle (fread t.regs.acc.acc1))) ∧
  (∀ (s : State) (raw : Raw), ∃ t u, exec .reset s = .next t ∧ t.regs.outAngle = 0 ∧
    exec (.sample raw) t = .next u ∧ u.regs.outAngle = 0)

/-- R126: the reserved selectors read 0 in every state, and change nothing. -/
def Obligations.ReservedSelectorsReadZero : Prop :=
  ∀ s : State,
    exec .readRsv6 s = .next { s with rdData := 0 } ∧
    exec .readRsv7 s = .next { s with rdData := 0 }

/-- R32: PortRead by selector number is a function of the registers, `rd_data` equals it in every
cycle, and in the states of the invariant it is the floor of ACC[c] / 16 with bits 15:10 zero, or an
angle with bits 15:8 zero. -/
def Obligations.PortReadTable : Prop :=
  ∀ r : Regs,
    (∀ sel : BitVec 3, (r.outputs sel).rdData = portRead (Selector.ofCode sel) r) ∧
    portRead (Selector.ofCode 3) r = r.outAngle.setWidth 16 ∧
    portRead (Selector.ofCode 4) r = r.minAngle.setWidth 16 ∧
    portRead (Selector.ofCode 5) r = r.maxAngle.setWidth 16 ∧
    portRead (Selector.ofCode 6) r = 0 ∧
    portRead (Selector.ofCode 7) r = 0 ∧
    (∀ rate : Config.TickRate, r.Inv rate →
      ((portRead (Selector.ofCode 0) r).toNat : Int) = r.acc.acc0.toInt / 16 ∧
      ((portRead (Selector.ofCode 1) r).toNat : Int) = r.acc.acc1.toInt / 16 ∧
      ((portRead (Selector.ofCode 2) r).toNat : Int) = r.acc.acc2.toInt / 16 ∧
      (∀ sel : BitVec 3, sel.toNat ≤ 2 → (portRead (Selector.ofCode sel) r).toNat < 1024) ∧
      (∀ sel : BitVec 3, 3 ≤ sel.toNat → (portRead (Selector.ofCode sel) r).toNat < 256))

/-- R34, derived by the spec from R32: a read changes no register; two runs whose vectors differ only
in `rd_sel` go through the same registers and requests; a read repeated with no SAMPLE or RESET edge
between gives the same value. -/
def Obligations.ReadsHaveNoSideEffect : Prop :=
  (∀ (sel : Selector) (s : State), ∃ v, exec sel.instr s = .next { s with rdData := v }) ∧
  (∀ (ivs ivs' : List InVec) (s : State),
    List.Forall₂ (fun iv iv' => iv &&& 0xFFF8 = iv' &&& 0xFFF8) ivs ivs' →
    ∃ t t', runOn ivs s = .next t ∧ runOn ivs' s = .next t' ∧ t.regs = t'.regs ∧
      t.requests = t'.requests) ∧
  (∀ (ivs : List InVec) (s : State) (sel : Selector),
    (∀ iv ∈ ivs, iv.getLsbD 15 = false ∧ iv.getLsbD 14 = false) →
    ∃ t, runOn ivs s = .next t ∧ portRead sel t.regs = portRead sel s.regs)

/-- R58: the outputs of a cycle are these functions of the registers of that cycle and, for
`rd_data`, of `rd_sel`. R43: `out_angle` is PortRead(3)[7:0]. -/
def Obligations.OutputsShowRegisters : Prop :=
  ∀ (r : Regs) (sel : BitVec 3),
    (r.outputs sel).outAngle = (portRead (Selector.ofCode 3) r).extractLsb' 0 8 ∧
    r.outputs sel =
      { adcChannel := r.ch.code, adcStart := r.start, pwmCompare := r.compare,
        pwmOut := decide (r.cnt.toNat < r.cmpActive.toNat), outAngle := r.outAngle,
        rdData := portRead (Selector.ofCode sel) r }

/-! ### The Angle Mapper -/

/-- R65: MAP's formula and its defensive clamp, the dependence on raw[9:2] alone, the form in
hardware terms, and the corner cases. -/
def Obligations.MapperFormula : Prop :=
  (∀ raw : Raw,
    (mapAngle raw).toNat = raw.toNat / 4 * 180 / 256 ∧
    (mapAngle raw).toNat = min (raw.toNat / 4 * 180 / 256) 180 ∧
    mapAngle raw = mapAngle (raw &&& 0x3FC) ∧
    mapAngle raw = (((raw.extractLsb' 2 8).setWidth 16 * 180 : BitVec 16).extractLsb' 8 8)) ∧
  mapAngle 6 = 0 ∧ mapAngle 7 = 0 ∧ mapAngle 8 = 1 ∧ mapAngle 512 = 90 ∧ mapAngle 1020 = 179 ∧
  mapAngle 1023 = 179

/-- R66, derived by the spec from R65: MAP takes exactly the values 0 to 179, and so the widest pulse
the pipeline asks for is A2US(179) = 1994 microseconds, at every tick frequency the compare value
A2C(179). -/
def Obligations.MapperRange : Prop :=
  (∀ raw : Raw, (mapAngle raw).toNat ≤ 179 ∧ a2us (mapAngle raw) ≤ 1994) ∧
  (∀ a : Angle, a.toNat ≤ 179 → ∃ raw : Raw, mapAngle raw = a) ∧
  a2us 179 = 1994 ∧
  (∀ (rate : Config.TickRate) (raw : Raw),
    (a2c rate (mapAngle raw)).toNat ≤ (a2c rate 179).toNat)

/-- R67, derived by the spec from R65: MAP is monotonically non-decreasing. -/
def Obligations.MapperMonotone : Prop :=
  ∀ raw raw' : Raw, raw.toNat ≤ raw'.toNat → (mapAngle raw).toNat ≤ (mapAngle raw').toNat

/-- R68, derived by the spec from R65: MAP is constant on each group of four inputs, and angle a is
first reached at the smallest q = raw[9:2] with q × 180 ≥ 256 × a. -/
def Obligations.MapperSteps : Prop :=
  (∀ raw raw' : Raw, raw.toNat / 4 = raw'.toNat / 4 → mapAngle raw = mapAngle raw') ∧
  (∀ (a : Nat) (raw : Raw), a ≤ (mapAngle raw).toNat ↔ 256 * a ≤ raw.toNat / 4 * 180) ∧
  (∀ raw : Raw, (mapAngle raw = 1 ↔ 8 ≤ raw.toNat ∧ raw.toNat ≤ 11) ∧
    (mapAngle raw = 2 ↔ 12 ≤ raw.toNat ∧ raw.toNat ≤ 19) ∧
    (mapAngle raw = 90 ↔ 512 ≤ raw.toNat ∧ raw.toNat ≤ 519) ∧
    (mapAngle raw = 179 ↔ 1020 ≤ raw.toNat)) ∧
  mapAngle 255 = 44 ∧ mapAngle 256 = 45 ∧ mapAngle 767 = 134 ∧ mapAngle 768 = 135

/-! ### The Exponential Filter Bank -/

/-- R70: the bootstrap, and otherwise the accumulator moved by the floor of a sixteenth of the
difference, exactly, whatever the 32-bit accumulator holds. The floor is R8's arithmetic shift. -/
def Obligations.FilterUpdateRule : Prop :=
  (∀ raw : Raw, (fupd 0 raw).toInt = 16 * (raw.toNat : Int)) ∧
  (∀ (acc : Acc) (raw : Raw), acc ≠ 0 →
    (fupd acc raw).toInt = acc.toInt + (16 * (raw.toNat : Int) - acc.toInt) / 16) ∧
  fupd 8208 100 = 7795 ∧ fupd 7795 100 = 7407 ∧ fupd 1 0 = 0 ∧ fupd 16368 0 = 15345 ∧
  fupd 1 1023 = 1023

/-- R71: FREAD is the floor of acc / 16 on every accumulator a reachable state holds, and gives back
the sample right after a bootstrap. -/
def Obligations.FilteredValueIsAShift : Prop :=
  (∀ acc : Acc, 0 ≤ acc.toInt → acc.toInt ≤ 16368 →
    ((fread acc).toNat : Int) = acc.toInt / 16) ∧
  (∀ raw : Raw, fread (BitVec.ofNat 32 (raw.toNat * 16)) = raw) ∧
  fread 0 = 0 ∧ fread 15 = 0 ∧ fread 16 = 1 ∧ fread 16368 = 1023 ∧ fread 7795 = 487

/-- R72, derived by the spec from R70 and R21: an update keeps an accumulator in 0 to 16368: it gives
the scaled sample from 0, and otherwise a value between the old one and the scaled sample, both
included. -/
def Obligations.FilterStaysBetween : Prop :=
  ∀ (acc : Acc) (raw : Raw), 0 ≤ acc.toInt → acc.toInt ≤ 16368 →
    0 ≤ (fupd acc raw).toInt ∧ (fupd acc raw).toInt ≤ 16368 ∧
    (acc = 0 → (fupd acc raw).toInt = 16 * (raw.toNat : Int)) ∧
    (acc ≠ 0 → acc.toInt ≤ 16 * (raw.toNat : Int) →
      acc.toInt ≤ (fupd acc raw).toInt ∧ (fupd acc raw).toInt ≤ 16 * (raw.toNat : Int)) ∧
    (acc ≠ 0 → 16 * (raw.toNat : Int) < acc.toInt →
      16 * (raw.toNat : Int) ≤ (fupd acc raw).toInt ∧ (fupd acc raw).toInt < acc.toInt)

/-- R74, derived by the spec from R70 and R71: for a constant input X with S = 16 X: exact bootstrap,
no drift, from above a strict fall to S and rest there, from below a rise that stops at the first
value with 1 ≤ S - acc ≤ 15, so that the filtered value settles at X or X - 1; and the two settling
counts of the rule. -/
def Obligations.FilterSettles : Prop :=
  (∀ X : Raw,
    (fupd 0 X).toInt = 16 * (X.toNat : Int) ∧ fread (fupd 0 X) = X ∧
    (∀ acc : Acc, acc.toInt = 16 * (X.toNat : Int) → fupd acc X = acc ∧ fread acc = X) ∧
    (∀ acc : Acc, 16 * (X.toNat : Int) < acc.toInt → acc.toInt ≤ 16368 →
      (fupd acc X).toInt < acc.toInt ∧ 16 * (X.toNat : Int) ≤ (fupd acc X).toInt ∧
      ∃ N : Nat, ∀ n, N ≤ n →
        ((fun a => fupd a X)^[n] acc).toInt = 16 * (X.toNat : Int)) ∧
    (∀ acc : Acc, 0 < acc.toInt → acc.toInt < 16 * (X.toNat : Int) →
      (acc.toInt + 16 ≤ 16 * (X.toNat : Int) → acc.toInt < (fupd acc X).toInt) ∧
      (16 * (X.toNat : Int) < acc.toInt + 16 → fupd acc X = acc) ∧
      ∃ (N : Nat) (a : Acc), a.toInt < 16 * (X.toNat : Int) ∧
        16 * (X.toNat : Int) < a.toInt + 16 ∧ (fread a).toNat + 1 = X.toNat ∧
        ∀ n, N ≤ n → (fun a => fupd a X)^[n] acc = a)) ∧
  (fun a => fupd a 1000)^[6] 8192 = 10697 ∧ (fun a => fupd a 1000)^[105] 8192 ≠ 15985 ∧
  (fun a => fupd a 1000)^[106] 8192 = 15985 ∧
  (fun a => fupd a 512)^[6] 16000 = 13491 ∧ (fun a => fupd a 512)^[105] 16000 ≠ 8192 ∧
  (fun a => fupd a 512)^[106] 16000 = 8192

/-- R73 and R151: an accumulator of exactly 0, and no other, takes the next sample whole, in every
state and at every update; under samples of 0 every accumulator reaches 0 in at most 117 updates and
stays there, from 8192 in exactly 106 and from 16368 in exactly 117. -/
def Obligations.ZeroMeansUninitialised : Prop :=
  (∀ (s : State) (raw : Raw), ∃ t, exec (.sample raw) s = .next t ∧
    (s.regs.acc.get s.regs.ch = 0 → fread (t.regs.acc.get s.regs.ch) = raw) ∧
    (s.regs.acc.get s.regs.ch ≠ 0 → (t.regs.acc.get s.regs.ch).toInt =
      (s.regs.acc.get s.regs.ch).toInt
        + (16 * (raw.toNat : Int) - (s.regs.acc.get s.regs.ch).toInt) / 16)) ∧
  (∀ (acc : Acc) (n : Nat), 0 ≤ acc.toInt → acc.toInt ≤ 16368 → 117 ≤ n →
    (fun a => fupd a 0)^[n] acc = 0) ∧
  (fun a => fupd a 0)^[105] 8192 ≠ 0 ∧ (fun a => fupd a 0)^[106] 8192 = 0 ∧
  (fun a => fupd a 0)^[116] 16368 ≠ 0

/-- R76: an update of one channel reads and writes that channel's accumulator only, and three
consecutive SAMPLE operations update each channel once. -/
def Obligations.ChannelsAreIndependent : Prop :=
  (∀ (s : State) (raw : Raw), ∃ t, exec (.sample raw) s = .next t ∧
    t.regs.acc.get s.regs.ch = fupd (s.regs.acc.get s.regs.ch) raw ∧
    (∀ c, c ≠ s.regs.ch → t.regs.acc.get c = s.regs.acc.get c)) ∧
  (∀ (s : State) (x y z : Raw),
    ∃ t, runOps [.sample x, .sample y, .sample z] s = .next t ∧
      t.regs.acc.get s.regs.ch = fupd (s.regs.acc.get s.regs.ch) x ∧
      t.regs.acc.get (adv s.regs.ch) = fupd (s.regs.acc.get (adv s.regs.ch)) y ∧
      t.regs.acc.get (adv (adv s.regs.ch)) = fupd (s.regs.acc.get (adv (adv s.regs.ch))) z)

/-! ### The Channel Scheduler -/

/-- R81: with the channel codes of R52, ADV as the fixed order SET, MIN, MAX, SET, which is
`(c + 1) mod 3` on the codes. -/
def Obligations.SchedulerOrder : Prop :=
  Channel.code .set = 0 ∧ Channel.code .min = 1 ∧ Channel.code .max = 2 ∧
  adv .set = .min ∧ adv .min = .max ∧ adv .max = .set ∧
  (∀ c, (adv c).code.toNat = (c.code.toNat + 1) % Config.nch) ∧ (∀ c, adv (adv (adv c)) = c)

/-- R82, derived by the spec from R21, R81 and R105: over every run without a RESET the cursor
advances exactly once per SAMPLE and at no other time, whatever the samples are; after a RESET and n
SAMPLE operations CH = n mod 3. -/
def Obligations.CursorCountsSamples : Prop :=
  (∀ (ivs : List InVec) (s : State), (∀ iv ∈ ivs, selectsReset iv = false) →
    ∃ t, runOn ivs s = .next t ∧
      t.regs.ch = adv^[ivs.countP (fun iv => selectsSample iv)] s.regs.ch) ∧
  (∀ (rst : InVec) (ivs : List InVec) (s : State), selectsReset rst = true →
    (∀ iv ∈ ivs, selectsReset iv = false) →
    ∃ t, runOn (rst :: ivs) s = .next t ∧
      t.regs.ch.code.toNat = ivs.countP (fun iv => selectsSample iv) % 3)

/-! ### The Bound Arbiter -/

/-- R85, over all 8-bit arguments: with bounds in order the set angle is clamped into them
and the bounds are left; with crossed bounds all three collapse to the sum of the halves, whatever
the set angle. -/
def Obligations.ArbiterClampsOrCollapses : Prop :=
  ∀ set lo hi : Angle,
    (lo.toNat ≤ hi.toNat →
      (resolve set lo hi).out.toNat = max lo.toNat (min set.toNat hi.toNat) ∧
      (resolve set lo hi).lo = lo ∧ (resolve set lo hi).hi = hi) ∧
    (hi.toNat < lo.toNat →
      (resolve set lo hi).out.toNat = hi.toNat / 2 + lo.toNat / 2 ∧
      (resolve set lo hi).lo = (resolve set lo hi).out ∧
      (resolve set lo hi).hi = (resolve set lo hi).out ∧
      ∀ set' : Angle, resolve set' lo hi = resolve set lo hi)

/-- R87, derived by the spec from R85: the result lies between the bounds it leaves; inside bounds in
order an inner set angle passes; a collapse lies between the crossed bounds; nothing exceeds the
largest argument. -/
def Obligations.ArbiterResultIsBounded : Prop :=
  ∀ set lo hi : Angle,
    (resolve set lo hi).lo.toNat ≤ (resolve set lo hi).out.toNat ∧
    (resolve set lo hi).out.toNat ≤ (resolve set lo hi).hi.toNat ∧
    (lo.toNat ≤ hi.toNat → (resolve set lo hi).lo = lo ∧ (resolve set lo hi).hi = hi ∧
      lo.toNat ≤ (resolve set lo hi).out.toNat ∧ (resolve set lo hi).out.toNat ≤ hi.toNat ∧
      (lo.toNat ≤ set.toNat → set.toNat ≤ hi.toNat → (resolve set lo hi).out = set)) ∧
    (hi.toNat < lo.toNat → (resolve set lo hi).out = (resolve set lo hi).lo ∧
      (resolve set lo hi).out = (resolve set lo hi).hi ∧
      hi.toNat ≤ (resolve set lo hi).out.toNat ∧ (resolve set lo hi).out.toNat < lo.toNat) ∧
    (∀ N : Nat, set.toNat ≤ N → lo.toNat ≤ N → hi.toNat ≤ N →
      (resolve set lo hi).out.toNat ≤ N ∧ (resolve set lo hi).lo.toNat ≤ N ∧
      (resolve set lo hi).hi.toNat ≤ N)

/-- R88: the document's three examples. -/
def Obligations.ArbiterExamples : Prop :=
  resolve 90 100 50 = ⟨75, 75, 75⟩ ∧ resolve 170 10 160 = ⟨160, 10, 160⟩ ∧
  resolve 5 20 160 = ⟨20, 20, 160⟩

/-- R131: a collapse is no exception and leaves no trace: what the next transition makes of the
angles, the compare value, the accumulators and the cursor depends on the accumulators, the cursor
and the sample alone, whatever the last arbitration left. -/
def Obligations.CollapseLeavesNoTrace : Prop :=
  ∀ (s s' : State) (raw : Raw), s.rate = s'.rate → s.regs.acc = s'.regs.acc →
    s.regs.ch = s'.regs.ch →
    ∃ t t', exec (.sample raw) s = .next t ∧ exec (.sample raw) s' = .next t' ∧
      t.regs.samePipeline t'.regs

/-! ### The Pulse Generator -/

/-- R90: A2US's formula on the angles 0 to 180, its range, and the corner cases. -/
def Obligations.PulseWidthFormula : Prop :=
  (∀ a : Angle, a.toNat ≤ 180 →
    a2us a = a.toNat * 1000 / 180 + 1000 ∧ 1000 ≤ a2us a ∧ a2us a ≤ 2000) ∧
  a2us 0 = 1000 ∧ a2us 1 = 1005 ∧ a2us 89 = 1494 ∧ a2us 90 = 1500 ∧ a2us 179 = 1994 ∧
  a2us 180 = 2000 ∧ a2us 75 = 1416

/-- Derived by the spec from R66, R90 and R91 (spec/44_pulse_generator.md, "Properties of A2US and
A2C"): both are monotone, A2C at every tick frequency; A2US lies under the line by less than one
microsecond and is exact at the multiples of 9; A2C is A2US to within one tick; every SAMPLE writes a
compare value in A2C(0) to A2C(179), and A2C(180) is shorter than the frame. -/
def Obligations.PulseWidthIsAStaircase : Prop :=
  (∀ (rate : Config.TickRate) (a b : Angle), a.toNat ≤ b.toNat → b.toNat ≤ 180 →
    a2us a ≤ a2us b ∧ (a2c rate a).toNat ≤ (a2c rate b).toNat) ∧
  (∀ a : Angle, a.toNat ≤ 180 →
    180 * a2us a ≤ 180000 + 1000 * a.toNat ∧ 180000 + 1000 * a.toNat < 180 * a2us a + 180 ∧
    (180 * a2us a = 180000 + 1000 * a.toNat ↔ a.toNat % 9 = 0)) ∧
  (∀ (rate : Config.TickRate) (a : Angle), a.toNat ≤ 180 →
    (a2c rate a).toNat * 1000000 ≤ a2us a * rate.hz ∧
    a2us a * rate.hz < ((a2c rate a).toNat + 1) * 1000000) ∧
  (∀ (s : State) (raw : Raw), ∃ t, exec (.sample raw) s = .next t ∧
    (a2c s.rate 0).toNat ≤ t.regs.compare.toNat ∧
    t.regs.compare.toNat ≤ (a2c s.rate 179).toNat) ∧
  (∀ rate : Config.TickRate, rate.hz = 2000000 →
    a2c rate 0 = 2000 ∧ a2c rate 179 = 3988 ∧ a2c rate 180 = 4000) ∧
  (∀ rate : Config.TickRate, (a2c rate 180).toNat < periodTicks rate)

/-- R91: A2C's formula, with no loss of bits, at every permitted tick frequency; at a whole number of
megahertz it is a plain product. -/
def Obligations.CompareConversion : Prop :=
  (∀ (rate : Config.TickRate) (a : Angle), a.toNat ≤ 180 →
    (a2c rate a).toNat = a2us a * rate.hz / 1000000 ∧
    (∀ M : Nat, rate.hz = M * 1000000 → (a2c rate a).toNat = a2us a * M)) ∧
  (∀ rate : Config.TickRate, rate.hz = 2000000 → a2c rate 75 = 2832 ∧ a2c rate 179 = 3988) ∧
  (∀ rate : Config.TickRate, rate.hz = 250000 → a2c rate 1 = 251 ∧ a2c rate 45 = 312 ∧
    a2c rate 90 = 375)

/-- R94: the frame is PERIOD_TICKS ticks, the floor of 20 ms in ticks, 1 to 65536 of them, so that CNT
fits 16 bits; exactly 20 ms where TICK_HZ is a multiple of 50, else short by less than one tick. -/
def Obligations.FrameLength : Prop :=
  (∀ rate : Config.TickRate,
    periodTicks rate = 20000 * rate.hz / 1000000 ∧ 1 ≤ periodTicks rate ∧
    periodTicks rate ≤ 65536 ∧
    periodTicks rate * 1000000 ≤ 20000 * rate.hz ∧
    20000 * rate.hz < (periodTicks rate + 1) * 1000000 ∧
    (rate.hz % 50 = 0 → periodTicks rate * 1000000 = 20000 * rate.hz)) ∧
  (∀ rate : Config.TickRate, rate.hz = 2000000 → periodTicks rate = 40000) ∧
  (∀ hz : Nat, 50 ≤ hz → hz ≤ 3276800 → ∃ rate : Config.TickRate, rate.hz = hz) ∧
  (∀ rate : Config.TickRate, 50 ≤ rate.hz ∧ rate.hz ≤ 3276800)

/-- Derived by the spec from R91 and R94 (spec/44_pulse_generator.md, "Bounds"): every pulse is shorter
than the frame at every permitted tick frequency, so that a frame has a low phase; a compare value of 0
needs a tick frequency below 1000 and keeps the output low. -/
def Obligations.PulseFitsFrame : Prop :=
  (∀ (rate : Config.TickRate) (a : Angle), a.toNat ≤ 180 →
    (a2c rate a).toNat < periodTicks rate ∧
    (a2c rate a = 0 → rate.hz < 1000 ∧ ∀ cnt : Ticks, pulseHigh cnt (a2c rate a) = false)) ∧
  (∀ s : State, s.regs.Inv s.rate → s.regs.cmpActive.toNat < periodTicks s.rate)

/-- R93: COMPARE is written from the angle the same operation writes to OUT_ANGLE, by every SAMPLE,
in whatever state; so the two agree in every state after any SAMPLE or RESET. -/
def Obligations.CompareFollowsOutput : Prop :=
  (∀ (s : State) (raw : Raw), ∃ t, exec (.sample raw) s = .next t ∧
    t.regs.compare = a2c s.rate t.regs.outAngle) ∧
  (∀ (ivs : List InVec) (s : State), s.regs.compare = a2c s.rate s.regs.outAngle →
    ∃ t, runOn ivs s = .next t ∧ t.regs.compare = a2c t.rate t.regs.outAngle)

/-- R95: TICK moves the frame timer alone: at CNT = PERIOD_TICKS - 1 it starts a frame with the
COMPARE of before the edge; otherwise CNT rises by one, without wrapping in the states of the
invariant; with a frame of one tick CNT stays 0. -/
def Obligations.TickAdvancesTimer : Prop :=
  (∀ s : State, s.regs.cnt.toNat = periodTicks s.rate - 1 →
    exec .tick s = .next { s with regs := { s.regs with cnt := 0, cmpActive := s.regs.compare } }) ∧
  (∀ s : State, s.regs.cnt.toNat ≠ periodTicks s.rate - 1 →
    exec .tick s = .next { s with regs := { s.regs with cnt := s.regs.cnt + 1 } }) ∧
  (∀ s : State, s.regs.Inv s.rate → s.regs.cnt.toNat ≠ periodTicks s.rate - 1 →
    (s.regs.cnt + 1).toNat = s.regs.cnt.toNat + 1) ∧
  (∀ s : State, s.regs.Inv s.rate → periodTicks s.rate = 1 → ∃ t, exec .tick s = .next t ∧
    t.regs.cnt = 0 ∧ t.regs.cmpActive = s.regs.compare)

/-- R96: from the start of a frame, after k ticks of it and whatever samples and reads fall between,
the output is high exactly when k < CMP_ACTIVE: one pulse of CMP_ACTIVE ticks at the start of the
frame. With CMP_ACTIVE = A2C(a) that is A2US(a) microseconds to within one tick. -/
def Obligations.PulseShape : Prop :=
  (∀ (ivs : List InVec) (s : State) (sel : BitVec 3),
    (∀ iv ∈ ivs, selectsReset iv = false) → s.regs.cnt = 0 →
    ivs.countP (fun iv => selectsTick iv) < periodTicks s.rate →
    ∃ t, runOn ivs s = .next t ∧ t.regs.cmpActive = s.regs.cmpActive ∧
      (t.regs.outputs sel).pwmOut =
        decide (ivs.countP (fun iv => selectsTick iv) < s.regs.cmpActive.toNat)) ∧
  (∀ (rate : Config.TickRate) (a : Angle), a.toNat ≤ 180 →
    (a2c rate a).toNat * 1000000 ≤ a2us a * rate.hz ∧
    a2us a * rate.hz < ((a2c rate a).toNat + 1) * 1000000)

/-- R98: a new COMPARE waits for the frame boundary: at each edge without RESET, CMP_ACTIVE takes the
COMPARE of before the edge at a tick that ends the frame, and keeps its value at every other; over
the rest of a frame of any run it is unchanged, and the tick that ends it loads the last COMPARE. -/
def Obligations.CompareWaitsForFrame : Prop :=
  (∀ (s : State) (iv : InVec) (rest : List InVec), s.inputs = iv :: rest →
    selectsReset iv = false →
    ∃ t, step s = .next t ∧
      (selectsTick iv = true → s.regs.cnt.toNat = periodTicks s.rate - 1 →
        t.regs.cnt = 0 ∧ t.regs.cmpActive = s.regs.compare) ∧
      (¬ (selectsTick iv = true ∧ s.regs.cnt.toNat = periodTicks s.rate - 1) →
        t.regs.cmpActive = s.regs.cmpActive)) ∧
  (∀ (ivs : List InVec) (last : InVec) (s : State),
    (∀ iv ∈ ivs, selectsReset iv = false) → selectsTick last = true →
    s.regs.cnt.toNat + ivs.countP (fun iv => selectsTick iv) = periodTicks s.rate - 1 →
    ∃ t u, runOn ivs s = .next t ∧ t.regs.cmpActive = s.regs.cmpActive ∧
      runOn (ivs ++ [last]) s = .next u ∧ u.regs.cnt = 0 ∧ u.regs.cmpActive = t.regs.compare)

/-- R99: the timer runs from reset for ever and needs no sample: after a RESET edge CNT = 0 and
CMP_ACTIVE = A2C(0); over every run without RESET from there, of any length and whatever samples fall in
it, CNT is the number of ticks modulo PERIOD_TICKS; and the first frame carries a pulse of A2C(0) ticks,
the pulse for angle 0, at once if A2C(0) > 0. -/
def Obligations.FirstFrameHasAPulse : Prop :=
  (∀ (rst : InVec) (s : State) (sel : BitVec 3), selectsReset rst = true →
    ∃ t, runOn [rst] s = .next t ∧ t.regs.cnt = 0 ∧ t.regs.cmpActive = a2c s.rate 0 ∧
      (0 < (a2c s.rate 0).toNat → (t.regs.outputs sel).pwmOut = true)) ∧
  (∀ (rst : InVec) (ivs : List InVec) (s : State), selectsReset rst = true →
    (∀ iv ∈ ivs, selectsReset iv = false) →
    ∃ t, runOn (rst :: ivs) s = .next t ∧
      t.regs.cnt.toNat = ivs.countP (fun iv => selectsTick iv) % periodTicks s.rate) ∧
  (∀ (rst : InVec) (ivs : List InVec) (s : State) (sel : BitVec 3), selectsReset rst = true →
    (∀ iv ∈ ivs, selectsReset iv = false) →
    ivs.countP (fun iv => selectsTick iv) < periodTicks s.rate →
    ∃ t, runOn (rst :: ivs) s = .next t ∧ t.regs.cmpActive = a2c s.rate 0 ∧
      (t.regs.outputs sel).pwmOut =
        decide (ivs.countP (fun iv => selectsTick iv) < (a2c s.rate 0).toNat))

/-- R20 and R94: the pipeline does not read the frame timer, and no pipeline operation writes it: two
runs with the same samples and resets and any ticks, from states that agree outside the timer, agree
outside the timer; and an edge without TICK and RESET leaves the timer alone. -/
def Obligations.PipelineIgnoresTimer : Prop :=
  (∀ (ivs ivs' : List InVec) (s s' : State),
    List.Forall₂ (fun iv iv' => iv &&& 0xFFF0 = iv' &&& 0xFFF0) ivs ivs' → s.rate = s'.rate →
    s.regs.samePipeline s'.regs →
    ∃ t t', runOn ivs s = .next t ∧ runOn ivs' s' = .next t' ∧ t.regs.samePipeline t'.regs) ∧
  (∀ (ivs : List InVec) (s : State),
    (∀ iv ∈ ivs, iv.getLsbD 15 = false ∧ iv.getLsbD 3 = false) →
    ∃ t, runOn ivs s = .next t ∧ t.regs.cnt = s.regs.cnt ∧ t.regs.cmpActive = s.regs.cmpActive)

/-- R9 and R75, derived by the spec from R65, R70, R71, R72, R85, R90 and R91: every intermediate
value stays in its range, and an accumulator kept in 16 bits would move in the same way. -/
def Obligations.IntermediatesFitTheirWidths : Prop :=
  (∀ raw : Raw, raw.toNat / 4 ≤ 255 ∧ raw.toNat / 4 * 180 ≤ 45900 ∧
    (mapAngle raw).toNat ≤ 179 ∧ 0 ≤ scaled raw ∧ scaled raw ≤ 16368) ∧
  (∀ (acc : Acc) (raw : Raw), 0 ≤ acc.toInt → acc.toInt ≤ 16368 →
    -16368 ≤ scaled raw - acc.toInt ∧ scaled raw - acc.toInt ≤ 16368 ∧
    (BitVec.ofInt 16 (fupd acc raw).toInt).toInt = (fupd acc raw).toInt) ∧
  (∀ lo hi : Angle, lo.toNat ≤ 180 → hi.toNat ≤ 180 → (midpoint lo hi).toNat ≤ 180) ∧
  (∀ (rate : Config.TickRate) (a : Angle), a.toNat ≤ 180 → a.toNat * 1000 ≤ 180000 ∧
    a2us a ≤ 2000 ∧ a2us a * rate.hz ≤ 6553600000 ∧ (a2c rate a).toNat ≤ 6553)

/-! ### The Acquisition Controller -/

/-- R105: the whole transition and its frame: the accumulator of the current channel, the three
angles from all three filtered values with the updated one included, COMPARE, CH, START, the request;
nothing else of the state changes. -/
def Obligations.SampleTransition : Prop :=
  ∀ (raw : Raw) (s : State),
    let c := s.regs.ch
    let a := fupd (s.regs.acc.get c) raw
    let a0 := if c = .set then a else s.regs.acc.acc0
    let a1 := if c = .min then a else s.regs.acc.acc1
    let a2 := if c = .max then a else s.regs.acc.acc2
    let r := resolve (mapAngle (fread a0)) (mapAngle (fread a1)) (mapAngle (fread a2))
    exec (.sample raw) s = .next { s with
      regs := { acc := ⟨a0, a1, a2⟩, ch := adv c, outAngle := r.out, minAngle := r.lo,
                maxAngle := r.hi, compare := a2c s.rate r.out, start := true,
                cnt := s.regs.cnt, cmpActive := s.regs.cmpActive }
      requests := adv c :: s.requests }

/-- R108: IDLE clears START and changes nothing else; a second one changes nothing. -/
def Obligations.IdleClearsStart : Prop :=
  ∀ s : State,
    exec .idle s = .next { s with regs := { s.regs with start := false } } ∧
    (s.regs.start = false → exec .idle s = .next s)

/-- R116, derived by the spec from R21, R70, R85 and R105: the first three transitions after a RESET
operation from any state, for samples s, m, x. -/
def Obligations.FirstThreeTransitions : Prop :=
  ∀ (s0 : State) (s m x : Raw),
    ∃ t0 t1 t2 t3,
      exec .reset s0 = .next t0 ∧ exec (.sample s) t0 = .next t1 ∧
      exec (.sample m) t1 = .next t2 ∧ exec (.sample x) t2 = .next t3 ∧
      (t0.regs.acc = ⟨0, 0, 0⟩ ∧ t0.regs.outAngle = 0 ∧ t0.regs.minAngle = 0 ∧
        t0.regs.maxAngle = 0 ∧ t0.regs.ch = .set) ∧
      (t1.regs.acc = ⟨BitVec.ofNat 32 (16 * s.toNat), 0, 0⟩ ∧ t1.regs.outAngle = 0 ∧
        t1.regs.minAngle = 0 ∧ t1.regs.maxAngle = 0 ∧ t1.regs.ch = .min) ∧
      (t2.regs.acc = ⟨BitVec.ofNat 32 (16 * s.toNat), BitVec.ofNat 32 (16 * m.toNat), 0⟩ ∧
        t2.regs.outAngle.toNat = (mapAngle m).toNat / 2 ∧
        t2.regs.minAngle = t2.regs.outAngle ∧ t2.regs.maxAngle = t2.regs.outAngle ∧
        t2.regs.ch = .max) ∧
      (t3.regs.acc = ⟨BitVec.ofNat 32 (16 * s.toNat), BitVec.ofNat 32 (16 * m.toNat),
          BitVec.ofNat 32 (16 * x.toNat)⟩ ∧
        (⟨t3.regs.outAngle, t3.regs.minAngle, t3.regs.maxAngle⟩ : Angles) =
          resolve (mapAngle s) (mapAngle m) (mapAngle x) ∧
        t3.regs.ch = .set)

/-- R156, derived by the spec from R108 and R111: with no sample-ready event and no reset, over any
number of edges, the accumulators, the cursor, the angles and COMPARE keep their values and no request is
made; START is 0 from the first such edge on (R108), and the ticks go on being counted (R95). -/
def Obligations.WaitingChangesNothing : Prop :=
  ∀ (ivs : List InVec) (s : State), (∀ iv ∈ ivs, iv.getLsbD 15 = false ∧ iv.getLsbD 14 = false) →
    ∃ t, runOn ivs s = .next t ∧
      t.regs.acc = s.regs.acc ∧ t.regs.ch = s.regs.ch ∧ t.regs.outAngle = s.regs.outAngle ∧
      t.regs.minAngle = s.regs.minAngle ∧ t.regs.maxAngle = s.regs.maxAngle ∧
      t.regs.compare = s.regs.compare ∧ t.requests = s.requests ∧
      (ivs = [] → t.regs.start = s.regs.start) ∧ (ivs ≠ [] → t.regs.start = false) ∧
      (s.regs.cnt.toNat < periodTicks s.rate → t.regs.cnt.toNat =
        (s.regs.cnt.toNat + ivs.countP (fun iv => selectsTick iv)) % periodTicks s.rate)

/-! ### Reset and the invariants -/

/-- R145: RESET writes every register, from every state, and requests a conversion on channel SET; a
second one leaves the registers as they are; the outputs after it. -/
def Obligations.ResetWritesEveryRegister : Prop :=
  (∀ s : State, exec .reset s = .next { s with
    regs := { acc := ⟨0, 0, 0⟩, ch := .set, outAngle := 0, minAngle := 0, maxAngle := 0,
              compare := a2c s.rate 0, start := true, cnt := 0, cmpActive := a2c s.rate 0 }
    requests := .set :: s.requests }) ∧
  (∀ rate : Config.TickRate, (a2c rate 0).toNat = 1000 * rate.hz / 1000000) ∧
  (∀ s : State, ∃ t u, exec .reset s = .next t ∧ exec .reset t = .next u ∧ u.regs = t.regs ∧
    (t.regs.outputs 0).adcChannel = 0 ∧ (t.regs.outputs 0).adcStart = true ∧
    (t.regs.outputs 0).outAngle = 0 ∧
    (t.regs.outputs 0).pwmOut = decide (0 < 1000 * s.rate.hz / 1000000))

/-- R146: nothing survives a reset: two blocks of one build, in any states, go through the same
registers from a RESET edge on, whatever follows. -/
def Obligations.NothingSurvivesReset : Prop :=
  ∀ (rst : InVec) (ivs : List InVec) (s s' : State), selectsReset rst = true → s.rate = s'.rate →
    ∃ t t', runOn (rst :: ivs) s = .next t ∧ runOn (rst :: ivs) s' = .next t' ∧ t.regs = t'.regs

/-- R21, at the build that THE MODEL CHOSE for `State.reset` (the default TICK_HZ, log entry 3): the
state after reset holds the values of the rule and is what a
RESET operation makes of any state of that build. -/
def Obligations.ResetStateIsAsListed : Prop :=
  State.reset.regs = Regs.atReset State.reset.rate ∧ State.reset.rate.hz = 2000000 ∧
  State.reset.regs.acc = ⟨0, 0, 0⟩ ∧ State.reset.regs.ch = .set ∧
  State.reset.regs.outAngle = 0 ∧ State.reset.regs.minAngle = 0 ∧
  State.reset.regs.maxAngle = 0 ∧ State.reset.regs.compare = 2000 ∧
  State.reset.regs.start = true ∧ State.reset.regs.cnt = 0 ∧ State.reset.regs.cmpActive = 2000 ∧
  (∀ s : State, s.rate = State.reset.rate → ∃ t, exec .reset s = .next t ∧
    t.regs = State.reset.regs)

/-- The invariant holds at `State.reset`, which is at the build THE MODEL CHOSE, the default TICK_HZ (log
entry 3). The five items are those of R22 on the values of R21; that the latest request is for the channel
in CH is R149 and R111, said of the model's own list of requests (log entry 5). -/
def Obligations.InvariantAtReset : Prop := State.reset.Inv

/-- The invariant of R22, and that the latest request (R111) in the model's own list of requests (log
entry 5) names the channel in CH, is kept by every step from every state that has it, whatever the inputs
are. -/
def Obligations.InvariantKeptByStep : Prop :=
  ∀ s : State, s.Inv → ∃ t, step s = .next t ∧ t.Inv

/-- R22, derived by the spec from R21, R66, R72, R87, R93 and R97: in every state reached from a RESET
operation, made in any state whatever, by any sequence of operations with any sample values, the five
items hold. -/
def Obligations.ReachableStatesMeetInvariant : Prop :=
  ∀ (rst : InVec) (ivs : List InVec) (s : State), selectsReset rst = true →
    ∃ t, runOn (rst :: ivs) s = .next t ∧
      (∀ c, 0 ≤ (t.regs.acc.get c).toInt ∧ (t.regs.acc.get c).toInt ≤ 16368) ∧
      t.regs.ch.code.toNat ≤ 2 ∧
      t.regs.minAngle.toNat ≤ t.regs.outAngle.toNat ∧
      t.regs.outAngle.toNat ≤ t.regs.maxAngle.toNat ∧ t.regs.maxAngle.toNat ≤ 179 ∧
      t.regs.compare = a2c s.rate t.regs.outAngle ∧
      t.regs.cnt.toNat ≤ periodTicks s.rate - 1 ∧
      (∃ a : Angle, a.toNat ≤ 179 ∧ t.regs.cmpActive = a2c s.rate a) ∧
      (a2c s.rate 0).toNat ≤ t.regs.cmpActive.toNat ∧
      t.regs.cmpActive.toNat ≤ (a2c s.rate 179).toNat ∧
      (a2c s.rate 179).toNat < periodTicks s.rate
end

