-- ==== Sys2Proof/Laws/State.lean ====
section
/-!
SUPPORT. One lemma per field of the state per named update, and the same for the accumulator bank and
the register updates, so that no later proof unfolds a record update.
-/

namespace Sys2Proof.Machine

/-! ### Named updates of the state -/

@[simp] theorem State.setRegs_regs (s : State) (r : Regs) : (s.setRegs r).regs = r := rfl
@[simp] theorem State.setRegs_rate (s : State) (r : Regs) : (s.setRegs r).rate = s.rate := rfl
@[simp] theorem State.setRegs_inputs (s : State) (r : Regs) : (s.setRegs r).inputs = s.inputs := rfl
@[simp] theorem State.setRegs_cycle (s : State) (r : Regs) : (s.setRegs r).cycle = s.cycle := rfl
@[simp] theorem State.setRegs_rdData (s : State) (r : Regs) : (s.setRegs r).rdData = s.rdData := rfl
@[simp] theorem State.setRegs_requests (s : State) (r : Regs) :
    (s.setRegs r).requests = s.requests := rfl

@[simp] theorem State.showRead_regs (s : State) (v : RdData) : (s.showRead v).regs = s.regs := rfl
@[simp] theorem State.showRead_rate (s : State) (v : RdData) : (s.showRead v).rate = s.rate := rfl
@[simp] theorem State.showRead_inputs (s : State) (v : RdData) :
    (s.showRead v).inputs = s.inputs := rfl
@[simp] theorem State.showRead_cycle (s : State) (v : RdData) :
    (s.showRead v).cycle = s.cycle := rfl
@[simp] theorem State.showRead_rdData (s : State) (v : RdData) : (s.showRead v).rdData = v := rfl
@[simp] theorem State.showRead_requests (s : State) (v : RdData) :
    (s.showRead v).requests = s.requests := rfl

@[simp] theorem State.emit_regs (s : State) (c : Channel) : (s.emit c).regs = s.regs := rfl
@[simp] theorem State.emit_rate (s : State) (c : Channel) : (s.emit c).rate = s.rate := rfl
@[simp] theorem State.emit_inputs (s : State) (c : Channel) : (s.emit c).inputs = s.inputs := rfl
@[simp] theorem State.emit_cycle (s : State) (c : Channel) : (s.emit c).cycle = s.cycle := rfl
@[simp] theorem State.emit_rdData (s : State) (c : Channel) : (s.emit c).rdData = s.rdData := rfl
@[simp] theorem State.emit_requests (s : State) (c : Channel) :
    (s.emit c).requests = c :: s.requests := rfl

@[simp] theorem State.consume_regs (s : State) : (s.consume).regs = s.regs := rfl
@[simp] theorem State.consume_rate (s : State) : (s.consume).rate = s.rate := rfl
@[simp] theorem State.consume_inputs (s : State) : (s.consume).inputs = s.inputs.tail := rfl
@[simp] theorem State.consume_cycle (s : State) : (s.consume).cycle = s.cycle + 1 := rfl
@[simp] theorem State.consume_rdData (s : State) : (s.consume).rdData = s.rdData := rfl
@[simp] theorem State.consume_requests (s : State) : (s.consume).requests = s.requests := rfl

@[simp] theorem State.feed_regs (s : State) (ivs : List InVec) : (s.feed ivs).regs = s.regs := rfl
@[simp] theorem State.feed_rate (s : State) (ivs : List InVec) : (s.feed ivs).rate = s.rate := rfl
@[simp] theorem State.feed_inputs (s : State) (ivs : List InVec) : (s.feed ivs).inputs = ivs := rfl
@[simp] theorem State.feed_cycle (s : State) (ivs : List InVec) :
    (s.feed ivs).cycle = s.cycle := rfl
@[simp] theorem State.feed_rdData (s : State) (ivs : List InVec) :
    (s.feed ivs).rdData = s.rdData := rfl
@[simp] theorem State.feed_requests (s : State) (ivs : List InVec) :
    (s.feed ivs).requests = s.requests := rfl

@[simp] theorem State.driveNext_regs (s : State) (iv : InVec) :
    (s.driveNext iv).regs = s.regs := rfl
@[simp] theorem State.driveNext_rate (s : State) (iv : InVec) :
    (s.driveNext iv).rate = s.rate := rfl
@[simp] theorem State.driveNext_inputs (s : State) (iv : InVec) :
    (s.driveNext iv).inputs = iv :: s.inputs.tail := rfl
@[simp] theorem State.driveNext_cycle (s : State) (iv : InVec) :
    (s.driveNext iv).cycle = s.cycle := rfl
@[simp] theorem State.driveNext_rdData (s : State) (iv : InVec) :
    (s.driveNext iv).rdData = s.rdData := rfl
@[simp] theorem State.driveNext_requests (s : State) (iv : InVec) :
    (s.driveNext iv).requests = s.requests := rfl

/-! ### The accumulator bank -/

@[simp] theorem Accs.get_set (a : Accs) : a.get .set = a.acc0 := rfl
@[simp] theorem Accs.get_min (a : Accs) : a.get .min = a.acc1 := rfl
@[simp] theorem Accs.get_max (a : Accs) : a.get .max = a.acc2 := rfl

@[simp] theorem Accs.get_put_self (a : Accs) (c : Channel) (v : Acc) : (a.put c v).get c = v := by
  cases c <;> rfl

theorem Accs.get_put_of_ne (a : Accs) (v : Acc) {c d : Channel} (h : d ≠ c) :
    (a.put c v).get d = a.get d := by
  cases c <;> cases d <;> first | rfl | exact absurd rfl h

theorem Accs.get_put (a : Accs) (c d : Channel) (v : Acc) :
    (a.put c v).get d = if d = c then v else a.get d := by
  cases c <;> cases d <;> rfl

theorem Accs.ext_get {a b : Accs} (h : ∀ c, a.get c = b.get c) : a = b := by
  cases a
  cases b
  have h0 := h .set
  have h1 := h .min
  have h2 := h .max
  simp only [Accs.get] at h0 h1 h2
  subst h0 h1 h2
  rfl

/-! ### The registers after a reset -/

@[simp] theorem Regs.atReset_acc (rate : Config.TickRate) : (Regs.atReset rate).acc = ⟨0, 0, 0⟩ := rfl
@[simp] theorem Regs.atReset_ch (rate : Config.TickRate) : (Regs.atReset rate).ch = .set := rfl
@[simp] theorem Regs.atReset_outAngle (rate : Config.TickRate) : (Regs.atReset rate).outAngle = 0 := rfl
@[simp] theorem Regs.atReset_minAngle (rate : Config.TickRate) : (Regs.atReset rate).minAngle = 0 := rfl
@[simp] theorem Regs.atReset_maxAngle (rate : Config.TickRate) : (Regs.atReset rate).maxAngle = 0 := rfl
@[simp] theorem Regs.atReset_compare (rate : Config.TickRate) : (Regs.atReset rate).compare = a2c rate 0 := rfl
@[simp] theorem Regs.atReset_start (rate : Config.TickRate) : (Regs.atReset rate).start = true := rfl
@[simp] theorem Regs.atReset_cnt (rate : Config.TickRate) : (Regs.atReset rate).cnt = 0 := rfl
@[simp] theorem Regs.atReset_cmpActive (rate : Config.TickRate) : (Regs.atReset rate).cmpActive = a2c rate 0 := rfl

/-! ### The registers after the transition -/

section
variable (rate : Config.TickRate) (raw : Raw) (r : Regs)

@[simp] theorem Regs.transition_acc : (r.transition rate raw).acc = nextAccs raw r := rfl
@[simp] theorem Regs.transition_ch : (r.transition rate raw).ch = adv r.ch := rfl
@[simp] theorem Regs.transition_outAngle : (r.transition rate raw).outAngle = (arbitrate (nextAccs raw r)).out := rfl
@[simp] theorem Regs.transition_minAngle : (r.transition rate raw).minAngle = (arbitrate (nextAccs raw r)).lo := rfl
@[simp] theorem Regs.transition_maxAngle : (r.transition rate raw).maxAngle = (arbitrate (nextAccs raw r)).hi := rfl
@[simp] theorem Regs.transition_compare : (r.transition rate raw).compare = a2c rate (arbitrate (nextAccs raw r)).out := rfl
@[simp] theorem Regs.transition_start : (r.transition rate raw).start = true := rfl
@[simp] theorem Regs.transition_cnt : (r.transition rate raw).cnt = r.cnt := rfl
@[simp] theorem Regs.transition_cmpActive : (r.transition rate raw).cmpActive = r.cmpActive := rfl

end

/-! ### The registers after a tick -/

section
variable (rate : Config.TickRate) (r : Regs)

@[simp] theorem Regs.advanceTimer_acc : (r.advanceTimer rate).acc = r.acc := by
  unfold Regs.advanceTimer
  split <;> rfl

@[simp] theorem Regs.advanceTimer_ch : (r.advanceTimer rate).ch = r.ch := by
  unfold Regs.advanceTimer
  split <;> rfl

@[simp] theorem Regs.advanceTimer_outAngle : (r.advanceTimer rate).outAngle = r.outAngle := by
  unfold Regs.advanceTimer
  split <;> rfl

@[simp] theorem Regs.advanceTimer_minAngle : (r.advanceTimer rate).minAngle = r.minAngle := by
  unfold Regs.advanceTimer
  split <;> rfl

@[simp] theorem Regs.advanceTimer_maxAngle : (r.advanceTimer rate).maxAngle = r.maxAngle := by
  unfold Regs.advanceTimer
  split <;> rfl

@[simp] theorem Regs.advanceTimer_compare : (r.advanceTimer rate).compare = r.compare := by
  unfold Regs.advanceTimer
  split <;> rfl

@[simp] theorem Regs.advanceTimer_start : (r.advanceTimer rate).start = r.start := by
  unfold Regs.advanceTimer
  split <;> rfl

theorem Regs.advanceTimer_cnt :
    (r.advanceTimer rate).cnt = if atFrameEnd rate r.cnt then 0 else r.cnt + 1 := by
  unfold Regs.advanceTimer
  split <;> rfl

theorem Regs.advanceTimer_cmpActive :
    (r.advanceTimer rate).cmpActive = if atFrameEnd rate r.cnt then r.compare else r.cmpActive := by
  unfold Regs.advanceTimer
  split <;> rfl

end

end Sys2Proof.Machine
end

