-- ==== Sys2Proof/Laws/Ops.lean ====
section
/-!
SUPPORT. What the internal functions compute, in plain arithmetic: the lemmas that later proofs cite
instead of unfolding the functions.
-/

namespace Sys2Proof.Machine

/-! ### The filter bank -/

theorem scaled_eq (raw : Raw) : scaled raw = 16 * (raw.toNat : Int) := by
  simp only [scaled, Config.filterOrder]
  omega

theorem neverInitialized_iff (acc : Acc) : neverInitialized acc = true ↔ acc = 0 := by
  simp [neverInitialized]

theorem fupd_of_zero (raw : Raw) : fupd 0 raw = BitVec.ofInt 32 (16 * (raw.toNat : Int)) := by
  rw [fupd, if_pos ((neverInitialized_iff 0).2 rfl), scaled_eq]

theorem fupd_of_ne_zero {acc : Acc} (h : acc ≠ 0) (raw : Raw) :
    fupd acc raw = BitVec.ofInt 32 (acc.toInt + (16 * (raw.toNat : Int) - acc.toInt) / 16) := by
  rw [fupd, if_neg (fun hz => h ((neverInitialized_iff acc).1 hz)), scaled_eq]
  rfl

/-- The low four bits of an accumulator are dropped and ten bits kept. -/
theorem fread_toNat (acc : Acc) : (fread acc).toNat = acc.toNat / 16 % 1024 := by
  have hlt := acc.isLt
  have h : (acc.sshiftRight Config.filterOrder).toNat % 1024 = acc.toNat / 16 % 1024 := by
    rw [BitVec.toNat_sshiftRight]
    simp only [Config.filterOrder, Nat.shiftRight_eq_div_pow]
    split <;> omega
  rw [fread, BitVec.toNat_setWidth]
  exact h

/-! ### The mapper -/

theorem mapAngle_toNat (raw : Raw) : (mapAngle raw).toNat = raw.toNat / 4 * 180 / 256 := by
  have hlt := raw.isLt
  simp only [mapAngle, BitVec.toNat_ofNat, Config.mapDiv1, Config.mapMul, Config.mapDiv2,
    Config.angleMax]
  omega

/-! ### The arbiter -/

theorem crossed_iff (lo hi : Angle) : crossed lo hi = true ↔ hi.toNat < lo.toNat := by
  simp [crossed, BitVec.ult]

theorem clampHigh_toNat (set hi : Angle) :
    (clampHigh set hi).toNat = if hi.toNat < set.toNat then hi.toNat else set.toNat := by
  simp only [clampHigh, BitVec.ult, decide_eq_true_eq]
  split <;> rfl

theorem clampLow_toNat (s1 lo : Angle) :
    (clampLow s1 lo).toNat = if s1.toNat < lo.toNat then lo.toNat else s1.toNat := by
  simp only [clampLow, BitVec.ult, decide_eq_true_eq]
  split <;> rfl

theorem midpoint_toNat (lo hi : Angle) : (midpoint lo hi).toNat = hi.toNat / 2 + lo.toNat / 2 := by
  have h1 := lo.isLt
  have h2 := hi.isLt
  simp only [midpoint, BitVec.toNat_ofNat]
  omega

theorem resolve_of_crossed {lo hi : Angle} (h : hi.toNat < lo.toNat) (set : Angle) :
    resolve set lo hi = ⟨midpoint lo hi, midpoint lo hi, midpoint lo hi⟩ := by
  rw [resolve, if_pos ((crossed_iff lo hi).2 h)]

theorem resolve_of_ordered {lo hi : Angle} (h : lo.toNat ≤ hi.toNat) (set : Angle) :
    resolve set lo hi = ⟨clampLow (clampHigh set hi) lo, lo, hi⟩ := by
  rw [resolve, if_neg (fun hc => Nat.not_lt.2 h ((crossed_iff lo hi).1 hc))]

/-! ### The pulse generator -/

theorem a2us_eq (a : Angle) : a2us a = a.toNat * 1000 / 180 + 1000 := rfl

theorem periodTicks_eq (rate : Config.TickRate) : periodTicks rate = 20000 * rate.hz / 1000000 := rfl

theorem rate_bounds (rate : Config.TickRate) : 50 ≤ rate.hz ∧ rate.hz ≤ 3276800 :=
  ⟨rate.hz_ge, rate.hz_le⟩

theorem a2c_toNat_mod (rate : Config.TickRate) (a : Angle) :
    (a2c rate a).toNat = a2us a * rate.hz / 1000000 % 65536 := rfl

theorem atFrameEnd_iff (rate : Config.TickRate) (cnt : Ticks) :
    atFrameEnd rate cnt = true ↔ cnt.toNat = periodTicks rate - 1 := by
  simp [atFrameEnd]

theorem pulseHigh_iff (cnt cmpActive : Ticks) :
    pulseHigh cnt cmpActive = true ↔ cnt.toNat < cmpActive.toNat := by
  simp [pulseHigh, BitVec.ult]

end Sys2Proof.Machine
end

