-- ==== Sys2Proof/Laws/PerInstr.lean ====
section
/-!
SUPPORT. One statement about every operation as syntax: its canonical vector matches its own row of
spec/opcode_table.json, and the decoder finds it among the operations that vector selects.
-/

namespace Sys2Proof

/-- The fields of SAMPLE's canonical vector (R48, R55). -/
theorem encode_sample_fields (raw : Raw) :
    (encode (.sample raw)).rst = false ∧ (encode (.sample raw)).sampleReady = true ∧
      (encode (.sample raw)).adcData = raw := by
  refine ⟨?_, ?_, ?_⟩
  · simp [encode, InVec.rst]
  · simp [encode, InVec.sampleReady]
  · ext i hi
    interval_cases i <;> simp [encode, InVec.adcData]

end Sys2Proof

namespace Sys2Proof.Laws.CanonicalRow

/-- The canonical vector of `i` (R55) is under the mask of `i`'s row equal to the row's match (R50),
and `i` is one of the operations it selects. -/
def Statement (i : Instr) : Prop :=
  encode i &&& i.mask = i.pattern ∧ i ∈ (decode (encode i)).ops

theorem reset : Statement .reset := ⟨by decide, by decide⟩

theorem sample (raw : Raw) : Statement (.sample raw) := by
  obtain ⟨h1, h2, h3⟩ := encode_sample_fields raw
  refine ⟨?_, ?_⟩
  · ext i hi
    have : i < 16 := hi
    interval_cases i <;> simp [encode, Instr.mask, Instr.pattern]
  · simp [Selection.ops, decode, decodeControl, h1, h2, h3]

theorem idle : Statement .idle := ⟨by decide, by decide⟩
theorem tick : Statement .tick := ⟨by decide, by decide⟩
theorem readFset : Statement .readFset := ⟨by decide, by decide⟩
theorem readFmin : Statement .readFmin := ⟨by decide, by decide⟩
theorem readFmax : Statement .readFmax := ⟨by decide, by decide⟩
theorem readOut : Statement .readOut := ⟨by decide, by decide⟩
theorem readAmin : Statement .readAmin := ⟨by decide, by decide⟩
theorem readAmax : Statement .readAmax := ⟨by decide, by decide⟩
theorem readRsv6 : Statement .readRsv6 := ⟨by decide, by decide⟩
theorem readRsv7 : Statement .readRsv7 := ⟨by decide, by decide⟩

end Sys2Proof.Laws.CanonicalRow
end

