-- ==== Sys2Proof/Laws/Step.lean ====
section
/-!
SUPPORT. What one operation, one clock edge and a run of clock edges do, said once: each meaning is
one equation, an edge is the pure function `edge`, and a run is a fold of it.
-/

namespace Sys2Proof.Machine

/-! ### One equation per meaning -/

theorem exec_reset (s : State) :
    exec .reset s = .next ((s.setRegs (Regs.atReset s.rate)).emit .set) := rfl

theorem exec_sample (raw : Raw) (s : State) :
    exec (.sample raw) s =
      .next ((s.setRegs (s.regs.transition s.rate raw)).emit (adv s.regs.ch)) := rfl

theorem exec_idle (s : State) :
    exec .idle s = .next (s.setRegs { s.regs with start := false }) := rfl

theorem exec_tick (s : State) :
    exec .tick s = .next (s.setRegs (s.regs.advanceTimer s.rate)) := rfl

theorem exec_read (sel : Selector) (s : State) :
    exec sel.instr s = .next (s.showRead (portRead sel s.regs)) := by
  cases sel <;> rfl

/-! ### One clock edge -/

/-- The registers after one clock edge. -/
def Regs.edge (rate : Config.TickRate) (iv : InVec) (r : Regs) : Regs :=
  if iv.rst then Regs.atReset rate
  else if iv.sampleReady then
    (if iv.tick then r.advanceTimer rate else r).transition rate iv.adcData
  else { (if iv.tick then r.advanceTimer rate else r) with start := false }

/-- The events emitted up to and including one clock edge. -/
def requestsAfter (iv : InVec) (s : State) : List Channel :=
  if iv.rst then .set :: s.requests
  else if iv.sampleReady then adv s.regs.ch :: s.requests else s.requests

/-- The state after the operations of one input vector. -/
def edge (iv : InVec) (s : State) : State :=
  { s with
    regs     := s.regs.edge s.rate iv
    rdData   := portRead (Selector.ofCode iv.rdSel) s.regs
    requests := requestsAfter iv s }

theorem selectsReset_eq (iv : InVec) : selectsReset iv = iv.rst := rfl
theorem selectsSample_eq (iv : InVec) : selectsSample iv = (!iv.rst && iv.sampleReady) := rfl
theorem selectsTick_eq (iv : InVec) : selectsTick iv = (!iv.rst && iv.tick) := rfl

theorem runVector_eq (iv : InVec) (s : State) : runVector iv s = .next (edge iv s) := by
  have hr : ∀ is, runOps (decodeRead iv :: is) s =
      runOps is (s.showRead (portRead (Selector.ofCode iv.rdSel) s.regs)) := by
    intro is
    rw [runOps, decodeRead, exec_read]
  simp only [runVector, Selection.ops, decode, hr, edge, requestsAfter, Regs.edge, decodeTimer,
    decodeControl]
  cases hrst : iv.rst <;> cases hs : iv.sampleReady <;> cases ht : iv.tick <;>
    simp [runOps, exec_reset, exec_sample, exec_idle, exec_tick, State.setRegs, State.showRead,
      State.emit]

/-- Every step answers a next state, and this is it. -/
theorem step_eq (s : State) : step s = .next (edge s.nextVector s.consume) := runVector_eq _ _

@[simp] theorem edge_regs (iv : InVec) (s : State) :
    (edge iv s).regs = s.regs.edge s.rate iv := rfl
@[simp] theorem edge_rate (iv : InVec) (s : State) : (edge iv s).rate = s.rate := rfl
@[simp] theorem edge_inputs (iv : InVec) (s : State) : (edge iv s).inputs = s.inputs := rfl
@[simp] theorem edge_cycle (iv : InVec) (s : State) : (edge iv s).cycle = s.cycle := rfl
@[simp] theorem edge_rdData (iv : InVec) (s : State) :
    (edge iv s).rdData = portRead (Selector.ofCode iv.rdSel) s.regs := rfl
@[simp] theorem edge_requests (iv : InVec) (s : State) :
    (edge iv s).requests = requestsAfter iv s := rfl

theorem step_of_inputs {s : State} {iv : InVec} {rest : List InVec} (h : s.inputs = iv :: rest) :
    step s = .next (edge iv s.consume) := by
  rw [step_eq]
  simp [State.nextVector, h]

/-! ### A run of clock edges -/

/-- The state a run on `ivs` ends in. -/
def runEnd : List InVec → State → State
  | [], s => s.feed []
  | iv :: ivs, s => runEnd ivs (edge iv { s with cycle := s.cycle + 1 })

theorem runOn_nil (s : State) : runOn [] s = .next (s.feed []) := rfl

theorem run_succ_of_next (M : Host.Core) (n : Nat) (u v : M.State) (h : M.step u = .next v) :
    M.run (n + 1) u = M.run n v := by
  simp only [Host.Core.run, h]

theorem runOn_cons (iv : InVec) (ivs : List InVec) (s : State) :
    runOn (iv :: ivs) s = runOn ivs (edge iv { s with cycle := s.cycle + 1 }) := by
  have h : step (s.feed (iv :: ivs)) =
      .next ((edge iv { s with cycle := s.cycle + 1 }).feed ivs) := step_of_inputs rfl
  exact run_succ_of_next Sys2Proof.core ivs.length _ _ h

/-- Every run answers a next state, and this is it. -/
theorem runOn_eq (ivs : List InVec) (s : State) : runOn ivs s = .next (runEnd ivs s) := by
  induction ivs generalizing s with
  | nil => rfl
  | cons iv ivs ih => rw [runOn_cons, ih, runEnd]

@[simp] theorem runEnd_nil (s : State) : runEnd [] s = s.feed [] := rfl
@[simp] theorem runEnd_cons (iv : InVec) (ivs : List InVec) (s : State) :
    runEnd (iv :: ivs) s = runEnd ivs (edge iv { s with cycle := s.cycle + 1 }) := rfl

theorem runEnd_rate (ivs : List InVec) (s : State) : (runEnd ivs s).rate = s.rate := by
  induction ivs generalizing s with
  | nil => rfl
  | cons iv ivs ih => rw [runEnd_cons, ih, edge_rate]

/-- The registers at the end of a run depend on the registers at its start, the build and the vectors
alone. -/
theorem runEnd_regs (ivs : List InVec) (s : State) :
    (runEnd ivs s).regs = ivs.foldl (fun r iv => r.edge s.rate iv) s.regs := by
  induction ivs generalizing s with
  | nil => rfl
  | cons iv ivs ih => rw [runEnd_cons, ih, List.foldl_cons, edge_regs, edge_rate]

end Sys2Proof.Machine
end

