-- ==== Sys2Proof/Tests/Slice0.lean ====
section
/-!
SUPPORT. Tests, and witnesses for the hypotheses of the statements in
Sys2Proof/Certificates/Slice0/Obligations.lean. Expected values are those of spec/95_test_vectors.md
(sections cited at each test) or of the worked examples of the rules; words are written out from the
field positions of spec/30_encoding.md rule R48.
-/

open Sys2Proof Sys2Proof.Machine

namespace Sys2Proof.Tests

/-! ### Helpers -/

/-- The state a step ends in, `none` where it stops. -/
def after (o : Host.Outcome State Fault Refusal) : Option State :=
  match o with
  | .next s => some s
  | .fault _ => none
  | .refused _ => none

/-- Registers from the columns of spec/95_test_vectors.md section 2.6: ACC, CH, OUT, AMIN, AMAX,
COMPARE; START = 1, CNT = 0, CMP_ACTIVE = 2000. -/
def row (a0 a1 a2 : Acc) (ch : Channel) (out lo hi : Angle) (cmp : Ticks) : Regs :=
  { acc := ⟨a0, a1, a2⟩, ch := ch, outAngle := out, minAngle := lo, maxAngle := hi, compare := cmp,
    start := true, cnt := 0, cmpActive := 2000 }

/-- The machine with these registers, at the default build, with these vectors to come. -/
def st (r : Regs) (ivs : List InVec) : State := { State.reset with regs := r, inputs := ivs }

/-- The state of program P1 after line 4 (section 3). -/
def p1 : Regs := row 8192 1600 14400 .set 90 17 158 3000

/-- The state of section 2.8. -/
def readState : Regs := row 8703 1600 14400 .min 94 17 158 3044

/-- The builds of section 2.5: the default, the least, the largest and a coarse one. -/
def rateAt (hz : Nat) (h : 50 ≤ hz ∧ hz ≤ 3276800) : Config.TickRate := ⟨hz, h.1, h.2⟩
def rateLeast : Config.TickRate := rateAt 50 (by decide)
def rateMost : Config.TickRate := rateAt 3276800 (by decide)
def rateCoarse : Config.TickRate := rateAt 250000 (by decide)

/-! ### Decoding: a word for every operation (R48, R49, R50) -/

/-- rst = 1 at bit 15. -/
theorem test_decode_reset : (decode 0b1_0_0000000000_0_000).control = .reset := by decide
/-- sample_ready at bit 14, adc_data = 100 at bits 13:4 (P1 line 3). -/
theorem test_decode_sample : (decode 0b0_1_0001100100_0_000).control = .sample 100 := by decide
/-- adc_data is ignored where sample_ready = 0. -/
theorem test_decode_idle : (decode 0b0_0_1111111111_0_000).control = .idle := by decide
/-- tick at bit 3. -/
theorem test_decode_tick : (decode 0b0_0_0000000000_1_000).timer = some .tick := by decide
theorem test_decode_tick_not_at_reset : (decode 0b1_0_0000000000_1_000).timer = none := by decide
theorem test_decode_readFset : (decode 0b0_0_0000000000_0_000).read = .readFset := by decide
theorem test_decode_readFmin : (decode 0b0_0_0000000000_0_001).read = .readFmin := by decide
theorem test_decode_readFmax : (decode 0b0_0_0000000000_0_010).read = .readFmax := by decide
theorem test_decode_readOut : (decode 0b0_0_0000000000_0_011).read = .readOut := by decide
theorem test_decode_readAmin : (decode 0b0_0_0000000000_0_100).read = .readAmin := by decide
theorem test_decode_readAmax : (decode 0b0_0_0000000000_0_101).read = .readAmax := by decide
theorem test_decode_readRsv6 : (decode 0b0_0_0000000000_0_110).read = .readRsv6 := by decide
/-- A READ is selected in reset cycles too. -/
theorem test_decode_readRsv7 : (decode 0b1_1_1111111111_1_111).read = .readRsv7 := by decide

/-- R59's examples: `SAMPLE 512` = 0x6000, `SAMPLE 512, READ OUT` = 0x6003, `SAMPLE 1023, TICK` =
0x7FF8, `TICK, READ AMAX` = 0x000D. -/
theorem test_assemble : assemble (.ops (some 512) false none) = 0x6000 ∧
    assemble (.ops (some 512) false (some .out)) = 0x6003 ∧
    assemble (.ops (some 1023) true none) = 0x7FF8 ∧
    assemble (.ops none true (some .amax)) = 0x000D := by decide

/-- A 17-bit word and a word with bits above bit 15 are no input vectors (R48). -/
theorem test_reject_by_name : decodeWord 24 0 = .error .longerThanVector ∧
    decodeWord 16 65536 = .error .bitsAboveVector := ⟨rfl, rfl⟩

/-! ### WellFormed: one ill-formed term for each check, which the check refuses -/

theorem test_wf_control : ¬ (Selection.controlOk ⟨.tick, none, .readOut⟩) := by decide
theorem test_wf_timer : ¬ (Selection.timerOk ⟨.idle, some .idle, .readOut⟩) := by decide
theorem test_wf_read : ¬ (Selection.readOk ⟨.idle, none, .tick⟩) := by decide
theorem test_wf_reset : ¬ (Selection.resetOk ⟨.reset, some .tick, .readOut⟩) := by decide
theorem test_wf_refuses : ¬ (Selection.wf ⟨.reset, some .tick, .readOut⟩) ∧
    ¬ (Selection.wf ⟨.readOut, none, .readOut⟩) := by decide

/-! ### One step of each operation (sections 2.6 to 2.8) -/

/-- Worked example of R105: the third row of section 2.6 but one, `0x7FF0` on P1 after line 4. -/
theorem test_sample_smooths : (after (step (st p1 [0x7FF0]))).map (·.regs) =
    some (row 8703 1600 14400 .min 94 17 158 3044) := by decide

/-- Section 2.6, last row: crossed bounds collapse, and the cursor wraps MAX to SET. -/
theorem test_sample_collapses :
    (after (step (st (row 8192 12800 0 .max 70 70 70 2776) [0x4C80]))).map (·.regs) =
    some (row 8192 12800 3200 .set 87 87 87 2966) := by decide

/-- Section 2.7: IDLE with stray data. -/
theorem test_idle_clears_start : (after (step (st p1 [0x3FF0]))).map (·.regs) =
    some { p1 with start := false } := by decide

/-- Section 2.7: the worked example of R95. -/
theorem test_tick_starts_frame :
    (after (exec .tick (st { p1 with cnt := 39999 } []))).map (·.regs) =
    some { p1 with cnt := 0, cmpActive := 3000 } := by decide

/-- Section 2.7: TICK, SAMPLE 1023 at the end of a frame: the new frame has the old COMPARE (R63). -/
theorem test_tick_and_sample :
    (after (step (st { row 8192 0 16368 .set 90 0 179 3000 with cnt := 39999 } [0x7FF8]))).map
      (fun t => (t.regs.cnt, t.regs.cmpActive, t.regs.compare, t.regs.acc.acc0, t.regs.ch)) =
    some (0, 3000, 3044, 8703, .min) := by decide

/-- Section 2.7: 0xFFFF resets, and the `rd_data` of that cycle is 0. -/
theorem test_reset_wins : (after (step (st p1 [0xFFFF]))).map (fun t => (t.regs, t.rdData)) =
    some (row 0 0 0 .set 0 0 0 2000, 0) := by decide

/-- Section 2.7: RESET, READ OUT reads the state of before the edge. -/
theorem test_reset_read_out : (after (step (st p1 [0x8003]))).map (·.rdData) = some 90 := by decide

theorem test_readFset : (after (exec .readFset (st readState []))).map (·.rdData) = some 543 := by
  decide
theorem test_readFmin : (after (exec .readFmin (st readState []))).map (·.rdData) = some 100 := by
  decide
theorem test_readFmax : (after (exec .readFmax (st readState []))).map (·.rdData) = some 900 := by
  decide
theorem test_readOut : (after (exec .readOut (st readState []))).map (·.rdData) = some 94 := by
  decide
theorem test_readAmin : (after (exec .readAmin (st readState []))).map (·.rdData) = some 17 := by
  decide
theorem test_readAmax : (after (exec .readAmax (st readState []))).map (·.rdData) = some 158 := by
  decide
theorem test_readRsv6 : (after (exec .readRsv6 (st readState []))).map (·.rdData) = some 0 := by
  decide
theorem test_readRsv7 : (after (exec .readRsv7 (st readState []))).map (·.rdData) = some 0 := by
  decide

/-- The fetch: the word is the very next input vector, and the rest of the state is as it was. -/
theorem test_withFetchWord : (after (step (State.reset.withFetchWord 16 0x6000))).map
    (fun t => (t.regs.acc, t.regs.ch, t.inputs)) = some (⟨8192, 0, 0⟩, .min, []) := by decide

/-! ### The internal functions (sections 2.1 to 2.5) -/

theorem test_map_steps : mapAngle 7 = 0 ∧ mapAngle 8 = 1 ∧ mapAngle 263 = 45 ∧ mapAngle 264 = 46 ∧
    mapAngle 1019 = 178 ∧ mapAngle 1023 = 179 := by decide

/-- The two updates that tell floor from truncation (decision D8) and the step that never completes. -/
theorem test_fupd_floor : fupd 7795 100 = 7407 ∧ fupd 17 0 = 15 ∧ fupd 8177 512 = 8177 := by decide

theorem test_resolve_rows : resolve 0 101 51 = ⟨75, 75, 75⟩ ∧ resolve 90 180 179 = ⟨179, 179, 179⟩ ∧
    resolve 179 90 90 = ⟨90, 90, 90⟩ ∧ resolve 9 10 160 = ⟨10, 10, 160⟩ := by decide

theorem test_a2c_rates : a2c rateMost 180 = 6553 ∧ periodTicks rateMost = 65536 ∧
    a2c rateCoarse 135 = 437 ∧ a2c (rateAt 62500 (by decide)) 89 = 93 ∧ a2c rateLeast 179 = 0 := by
  decide

/-! ### Witnesses: the hypotheses of the statements can be met

Each theorem names the statement whose hypotheses it meets, and the clause where there are several. -/

/-- P1 after line 4, in mid-frame, has the invariant of R22 (AnglesAreRead, PortReadTable,
PulseFitsFrame, TickAdvancesTimer third clause). -/
theorem witness_Inv : Regs.Inv Config.defaultRate { p1 with cnt := 39998, cmpActive := 3988 } where
  acc_range := by intro c; cases c <;> decide
  min_le_out := by decide
  out_le_max := by decide
  max_le := by decide
  compare_eq := by decide
  cnt_le := by decide
  cmpActive_eq := ⟨179, by decide, by decide⟩

/-- The invariant at its upper bounds, at the largest tick frequency: accumulators 0 and 16368, CNT
65535. -/
theorem witness_Inv_bounds : Regs.Inv rateMost
    { acc := ⟨16368, 0, 16368⟩, ch := .max, outAngle := 179, minAngle := 0, maxAngle := 179,
      compare := 6533, start := false, cnt := 65535, cmpActive := 3276 } where
  acc_range := by intro c; cases c <;> decide
  min_le_out := by decide
  out_le_max := by decide
  max_le := by decide
  compare_eq := by decide
  cnt_le := by decide
  cmpActive_eq := ⟨0, by decide, by decide⟩

/-- InvariantKeptByStep: a state other than the one after reset. -/
theorem witness_StateInv : State.Inv
    { st { p1 with cnt := 39998, cmpActive := 3988 } [0x7FF8] with requests := [.set, .max] } where
  regs_inv := witness_Inv
  last_request := rfl

/-- TickAdvancesTimer, fourth clause: the least build has a frame of one tick. -/
theorem witness_one_tick_frame : periodTicks rateLeast = 1 ∧ Regs.Inv rateLeast
    { acc := ⟨0, 0, 0⟩, ch := .set, outAngle := 0, minAngle := 0, maxAngle := 0, compare := 0,
      start := true, cnt := 0, cmpActive := 0 } where
  left := by decide
  right :=
    { acc_range := by intro c; cases c <;> decide
      min_le_out := by decide
      out_le_max := by decide
      max_le := by decide
      compare_eq := by decide
      cnt_le := by decide
      cmpActive_eq := ⟨0, by decide, by decide⟩ }

/-- TickAdvancesTimer, first and second clauses: CNT at the end of the frame and just before it. -/
theorem witness_frame_end : (39999 : Ticks).toNat = periodTicks Config.defaultRate - 1 ∧
    (39998 : Ticks).toNat ≠ periodTicks Config.defaultRate - 1 := by decide

/-- VectorSelectsByFieldGroups and IgnoredFieldsHaveNoEffect: vectors that differ in ignored fields
only, with `rst` = 1 and with `sample_ready` = 0; a vector with `rd_sel` = 0. -/
theorem witness_ignored : (0x8001 : InVec) &&& 0x8007 = 0xFFF9 &&& 0x8007 ∧
    (0x8001 : InVec).getLsbD 15 = true ∧ (0x0009 : InVec) &&& 0xC00F = 0x3FF9 &&& 0xC00F ∧
    (0x0009 : InVec).getLsbD 14 = false ∧ (0x7FF8 : InVec).extractLsb' 0 3 = 0 := by decide

/-- SelectionsRoundTrip: well-formed selections, with and without a timer operation. -/
theorem witness_wf : Selection.wf ⟨.sample 1023, some .tick, .readRsv7⟩ ∧
    Selection.wf ⟨.reset, none, .readFset⟩ := by decide

/-- CanonicalVectorNamesItsOperation: an operation that is not READ FSET; words that are no vector. -/
theorem witness_canonical : Instr.readOut ≠ .readFset ∧ (16 < 17 ∨ 65536 ≤ 0) ∧
    (16 < 16 ∨ 65536 ≤ 65536) := by decide

/-- StepRunsSelectedOperations and every statement with `s.inputs = iv :: rest`: a listed vector, and
the empty list; its last clause: an operation that answers a next state. -/
theorem witness_inputs : (st p1 [0x7FF8, 0x0003]).inputs = 0x7FF8 :: [0x0003] ∧
    State.reset.inputs = [] := ⟨rfl, rfl⟩
theorem witness_exec_next : ∃ t, exec (.sample 1023) (st p1 []) = .next t := ⟨_, rfl⟩

/-- EdgeUpdatesTogether, ChannelHeldUntilNextRequest, CompareWaitsForFrame: the four kinds of edge,
tick with and without sample, and a reset. -/
theorem witness_edges : selectsReset 0x8000 = true ∧ selectsReset 0x7FF8 = false ∧
    (0x7FF8 : InVec).getLsbD 3 = true ∧ (0x7FF8 : InVec).getLsbD 14 = true ∧
    (0x3FF0 : InVec).getLsbD 3 = false ∧ (0x3FF0 : InVec).getLsbD 14 = false ∧
    selectsReset 0x3FF0 = false ∧ selectsTick 0x7FF8 = true ∧ selectsTick 0x0003 = false := by decide

/-- TickThenSample: a vector that selects both, at the end of a frame. -/
theorem witness_tick_sample : selectsSample 0x7FF8 = true ∧ selectsTick 0x7FF8 = true ∧
    ({ p1 with cnt := 39999 } : Regs).cnt.toNat = periodTicks Config.defaultRate - 1 := by decide

/-- ChannelHeldUntilNextRequest second clause, WaitingChangesNothing, ReadsHaveNoSideEffect third
clause, CompareWaitsForFrame: a run without RESET and SAMPLE, with ticks and a read. -/
theorem witness_quiet_run : (∀ iv ∈ ([0x0008, 0x0003, 0x3FF0] : List InVec),
      selectsReset iv = false ∧ selectsSample iv = false) ∧
    (∀ iv ∈ ([0x0008, 0x0003, 0x3FF0] : List InVec),
      iv.getLsbD 15 = false ∧ iv.getLsbD 14 = false) := by
  simp [selectsReset, selectsSample]

/-- WaitingChangesNothing, last clause: CNT within the frame, at its last value. -/
theorem witness_cnt_in_frame : (39999 : Ticks).toNat < periodTicks Config.defaultRate := by decide

/-- CursorCountsSamples, PulseShape, FirstFrameHasAPulse, NothingSurvivesReset,
ReachableStatesMeetInvariant: a reset and a run without one, shorter than a frame. -/
theorem witness_run : selectsReset 0x8000 = true ∧
    (∀ iv ∈ ([0x6000, 0x4648, 0x7840] : List InVec), selectsReset iv = false) ∧
    p1.cnt = 0 ∧ ([0x6000, 0x4648, 0x7840] : List InVec).countP (fun iv => selectsTick iv) <
      periodTicks Config.defaultRate ∧ State.reset.rate = (st p1 []).rate :=
  ⟨by decide, by simp [selectsReset], rfl, by decide, rfl⟩

/-- FirstFrameHasAPulse, first clause: a build whose pulse for angle 0 is not empty; its second clause
in a build with a frame of one tick, which the ticks of the run go past. -/
theorem witness_first_frame : 0 < (a2c Config.defaultRate 0).toNat ∧ selectsReset 0xFFFF = true ∧
    (∀ iv ∈ ([0x0008, 0x6008, 0x0003] : List InVec), selectsReset iv = false) ∧
    periodTicks rateLeast < ([0x0008, 0x6008, 0x0003] : List InVec).countP (fun iv => selectsTick iv) :=
  ⟨by decide, by decide, by simp [selectsReset], by decide⟩

/-- WaitingChangesNothing, the clauses about START: the empty run, and a run of one edge. -/
theorem witness_waiting_start : ([] : List InVec) = [] ∧ ([0x0008] : List InVec) ≠ [] ∧
    (∀ iv ∈ ([] : List InVec), iv.getLsbD 15 = false ∧ iv.getLsbD 14 = false) ∧
    (∀ iv ∈ ([0x0008] : List InVec), iv.getLsbD 15 = false ∧ iv.getLsbD 14 = false) := by simp

/-- CompareWaitsForFrame, second clause: the last tick but one of a frame, a sample, and the tick that
ends it. -/
theorem witness_frame_rest : (∀ iv ∈ ([0x0008, 0x7FF0] : List InVec), selectsReset iv = false) ∧
    selectsTick 0x0008 = true ∧ (39998 : Ticks).toNat +
      ([0x0008, 0x7FF0] : List InVec).countP (fun iv => selectsTick iv) =
      periodTicks Config.defaultRate - 1 := by
  refine ⟨by simp [selectsReset], by decide, ?_⟩
  rw [show ([0x0008, 0x7FF0] : List InVec).countP (fun iv => selectsTick iv) = 1 by decide]
  rfl

/-- PipelineIgnoresTimer: runs that differ in `tick` and `rd_sel`, from states that differ in the
timer; its second clause: a run without RESET and TICK. -/
theorem witness_pipeline : List.Forall₂ (fun iv iv' : InVec => iv &&& 0xFFF0 = iv' &&& 0xFFF0)
      [0x6008, 0x0003] [0x6000, 0x000C] ∧
    p1.samePipeline { p1 with cnt := 7, cmpActive := 3988 } ∧
    (∀ iv ∈ ([0x6000, 0x0003] : List InVec), iv.getLsbD 15 = false ∧ iv.getLsbD 3 = false) :=
  ⟨.cons (by decide) (.cons (by decide) .nil), ⟨rfl, rfl, rfl, rfl, rfl, rfl, rfl⟩, by simp⟩

/-- ReadsHaveNoSideEffect, second clause: runs that differ in `rd_sel` only. -/
theorem witness_reads : List.Forall₂ (fun iv iv' : InVec => iv &&& 0xFFF8 = iv' &&& 0xFFF8)
    [0x6008, 0x0003] [0x600D, 0x0007] := .cons (by decide) (.cons (by decide) .nil)

/-- CollapseLeavesNoTrace: the same accumulators and cursor, one of them after a collapse. -/
theorem witness_collapse : (st (row 8192 12800 0 .max 70 70 70 2776) []).rate =
      (st (row 8192 12800 0 .max 90 17 158 3000) []).rate ∧
    (row 8192 12800 0 .max 70 70 70 2776).acc = (row 8192 12800 0 .max 90 17 158 3000).acc ∧
    (row 8192 12800 0 .max 70 70 70 2776).ch = (row 8192 12800 0 .max 90 17 158 3000).ch := by decide

/-- AnglesAreRead, second clause: a SAMPLE that finds the bounds in order, and one that finds them
crossed by one. -/
theorem witness_bounds : (mapAngle (fread 1600)).toNat ≤ (mapAngle (fread 14400)).toNat ∧
    (mapAngle (fread 128)).toNat = 1 ∧ (mapAngle (fread 112)).toNat = 0 := by decide

/-- AnglesAreRead: the transition it speaks of reaches a crossed state and an ordered one. -/
theorem witness_bounds_reached :
    ((after (exec (.sample 200) (st (row 8192 12800 0 .max 70 70 70 2776) []))).map (fun t =>
      decide ((mapAngle (fread t.regs.acc.acc2)).toNat < (mapAngle (fread t.regs.acc.acc1)).toNat)) =
        some true) ∧
    ((after (exec (.sample 1023) (st p1 []))).map (fun t =>
      decide ((mapAngle (fread t.regs.acc.acc1)).toNat ≤ (mapAngle (fread t.regs.acc.acc2)).toNat)) =
        some true) := by decide

/-- ArbiterClampsOrCollapses and ArbiterResultIsBounded: bounds equal, and crossed by one, and a set
angle on a bound. -/
theorem witness_arbiter : (90 : Angle).toNat ≤ (90 : Angle).toNat ∧
    (50 : Angle).toNat < (51 : Angle).toNat ∧ (10 : Angle).toNat ≤ (10 : Angle).toNat ∧
    (255 : Angle).toNat ≤ 255 := by decide

/-- MapperRange, MapperMonotone, MapperSteps: angles 0 and 179, samples in one group of four and on
either side of a step. -/
theorem witness_mapper : (0 : Angle).toNat ≤ 179 ∧ (179 : Angle).toNat ≤ 179 ∧
    (7 : Raw).toNat ≤ (8 : Raw).toNat ∧ (1020 : Raw).toNat / 4 = (1023 : Raw).toNat / 4 ∧
    8 ≤ (11 : Raw).toNat ∧ (11 : Raw).toNat ≤ 11 := by decide

/-- FilterUpdateRule, FilteredValueIsAShift, FilterStaysBetween, IntermediatesFitTheirWidths,
ZeroMeansUninitialised: accumulators at the ends of the range, and one and fifteen. -/
theorem witness_filter : (1 : Acc) ≠ 0 ∧ 0 ≤ (0 : Acc).toInt ∧ (16368 : Acc).toInt ≤ 16368 ∧
    (15 : Acc).toInt ≤ 16 * ((1 : Raw).toNat : Int) ∧ 16 * ((0 : Raw).toNat : Int) < (1 : Acc).toInt ∧
    (st (row 0 0 0 .set 0 0 0 2000) []).regs.acc.get .set = 0 ∧
    (st p1 []).regs.acc.get .set ≠ 0 := by decide

/-- FilteredValuesAreRead, fourth clause: an accumulator at 0 and a SAMPLE of 0 on its channel, and one
of another channel. -/
theorem witness_stays_zero : (st (row 0 0 0 .set 0 0 0 2000) [0x4000]).inputs = [0x4000] ∧
    (st (row 0 0 0 .set 0 0 0 2000) [0x4000]).regs.acc.get .set = 0 ∧
    (selectsSample 0x4000 = true → (0x4000 : InVec).extractLsb' 4 10 = 0) ∧
    (selectsSample 0x6000 = true → (row 0 0 0 .set 0 0 0 2000).ch = .max →
      (0x6000 : InVec).extractLsb' 4 10 = 0) :=
  ⟨rfl, rfl, fun _ => by decide, fun _ h => absurd h (by decide)⟩

/-- FilterSettles, clause by clause, for X = 512 (S = 8192): at S, one above, sixteen below and fifteen
below. -/
theorem witness_settle : (8192 : Acc).toInt = 16 * ((512 : Raw).toNat : Int) ∧
    16 * ((512 : Raw).toNat : Int) < (8193 : Acc).toInt ∧ (8193 : Acc).toInt ≤ 16368 ∧
    0 < (8176 : Acc).toInt ∧ (8176 : Acc).toInt + 16 ≤ 16 * ((512 : Raw).toNat : Int) ∧
    (8177 : Acc).toInt < 16 * ((512 : Raw).toNat : Int) ∧
    16 * ((512 : Raw).toNat : Int) < (8177 : Acc).toInt + 16 := by decide

/-- PulseWidthFormula, PulseWidthIsAStaircase, CompareConversion, FrameLength, PulseFitsFrame, PulseShape:
angles 0 and 180, builds at whole megahertz, 2000000, 250000 and a multiple of 50, and a build whose
compare value is 0. -/
theorem witness_pulse : (0 : Angle).toNat ≤ 180 ∧ (180 : Angle).toNat ≤ 180 ∧
    Config.defaultRate.hz = 2 * 1000000 ∧ rateCoarse.hz = 250000 ∧ rateLeast.hz % 50 = 0 ∧ a2c rateLeast 180 = 0 ∧
    (st p1 []).rate = Config.defaultRate := by decide

/-- CompareFollowsOutput: a state whose COMPARE is A2C of its OUT_ANGLE. -/
theorem witness_compare : p1.compare = a2c Config.defaultRate p1.outAngle := by decide

/-- PortReadTable: selectors on either side of its two ranges. -/
theorem witness_selectors : (2 : BitVec 3).toNat ≤ 2 ∧ 3 ≤ (3 : BitVec 3).toNat := by decide

/-- IdleClearsStart, second clause, and ResetStateIsAsListed, last clause. -/
theorem witness_idle_reset : (st { p1 with start := false } []).regs.start = false ∧
    (st p1 []).rate = State.reset.rate := by decide

end Sys2Proof.Tests
end

section
/-!
The invariant of R22: the range of each internal function, then the invariant at reset, over each
part of a clock edge, and over a run.
-/

namespace Sys2Proof.Machine

/-! ### The range of the accumulators (R72) -/

/-- FUPD moves an accumulator in range by a sixteenth of its distance to the scaled sample, rounded
down; no bit is lost to the 32-bit width (R70). -/
theorem fupd_toInt {acc : Acc} (h0 : 0 ≤ acc.toInt) (h1 : acc.toInt ≤ 16368) (raw : Raw) :
    (fupd acc raw).toInt = if acc = 0 then 16 * (raw.toNat : Int)
      else acc.toInt + (16 * (raw.toNat : Int) - acc.toInt) / 16 := by
  have hraw := raw.isLt
  split
  case isTrue hz =>
    rw [hz, fupd_of_zero]
    exact BitVec.toInt_ofInt_eq_self (by decide) (by omega) (by omega)
  case isFalse hz =>
    rw [fupd_of_ne_zero hz]
    exact BitVec.toInt_ofInt_eq_self (by decide) (by omega) (by omega)

theorem fupd_range {acc : Acc} (h : 0 ≤ acc.toInt ∧ acc.toInt ≤ 16368) (raw : Raw) :
    0 ≤ (fupd acc raw).toInt ∧ (fupd acc raw).toInt ≤ 16368 := by
  have hraw := raw.isLt
  rw [fupd_toInt h.1 h.2]
  split <;> omega

/-! ### The range and the order of the angles (R66, R87) -/

theorem mapAngle_le (raw : Raw) : (mapAngle raw).toNat ≤ 179 := by
  have hraw := raw.isLt
  rw [mapAngle_toNat]
  omega

/-- Arbitration leaves the output angle between the bounds it returns, on any arguments (R87). -/
theorem resolve_ordered (set lo hi : Angle) :
    (resolve set lo hi).lo.toNat ≤ (resolve set lo hi).out.toNat ∧
      (resolve set lo hi).out.toNat ≤ (resolve set lo hi).hi.toNat := by
  rcases Nat.lt_or_ge hi.toNat lo.toNat with h | h
  · rw [resolve_of_crossed h]
    exact ⟨le_rfl, le_rfl⟩
  · rw [resolve_of_ordered h]
    simp only [clampLow_toNat, clampHigh_toNat]
    split <;> split <;> omega

/-- Arbitration never raises the upper bound above the larger of the bounds given (R87). -/
theorem resolve_hi_le {n : Nat} (set : Angle) {lo hi : Angle} (hlo : lo.toNat ≤ n)
    (hhi : hi.toNat ≤ n) : (resolve set lo hi).hi.toNat ≤ n := by
  rcases Nat.lt_or_ge hi.toNat lo.toNat with h | h
  · rw [resolve_of_crossed h, midpoint_toNat]
    omega
  · rw [resolve_of_ordered h]
    exact hhi

theorem arbitrate_hi_le (a : Accs) : (arbitrate a).hi.toNat ≤ 179 :=
  resolve_hi_le _ (mapAngle_le _) (mapAngle_le _)

/-! ### The range of the compare values (R91, R97) -/

theorem a2us_mono {a b : Angle} (h : a.toNat ≤ b.toNat) : a2us a ≤ a2us b := by
  rw [a2us_eq, a2us_eq]
  omega

/-- A2C loses no bit to the 16-bit width, for any angle and any permitted rate (R91). -/
theorem a2c_toNat (rate : Config.TickRate) (a : Angle) :
    (a2c rate a).toNat = a2us a * rate.hz / 1000000 := by
  have hus : a2us a ≤ 2416 := a2us_mono (b := 255) (by have := a.isLt; simp; omega)
  have hprod : a2us a * rate.hz ≤ 2416 * 3276800 := Nat.mul_le_mul hus (rate_bounds rate).2
  rw [a2c_toNat_mod]
  omega

theorem a2c_mono (rate : Config.TickRate) {a b : Angle} (h : a.toNat ≤ b.toNat) :
    (a2c rate a).toNat ≤ (a2c rate b).toNat := by
  rw [a2c_toNat, a2c_toNat]
  exact Nat.div_le_div_right (Nat.mul_le_mul_right _ (a2us_mono h))

theorem a2c_max_lt_periodTicks (rate : Config.TickRate) :
    (a2c rate 179).toNat < periodTicks rate := by
  have hus : a2us 179 = 1994 := rfl
  have hlow := (rate_bounds rate).1
  rw [a2c_toNat, hus, periodTicks_eq]
  omega

/-! ### The range of the frame counter (R93, R94) -/

/-- A frame has at least one tick, and its ticks can be counted in 16 bits (R94). -/
theorem periodTicks_bounds (rate : Config.TickRate) :
    1 ≤ periodTicks rate ∧ periodTicks rate ≤ 65536 := by
  obtain ⟨hlow, hhigh⟩ := rate_bounds rate
  rw [periodTicks_eq]
  omega

/-- A tick keeps CNT within the frame: it wraps at the last tick and does not overflow before it
(R95). -/
theorem Regs.advanceTimer_cnt_le {rate : Config.TickRate} {r : Regs}
    (h : r.cnt.toNat ≤ periodTicks rate - 1) :
    (r.advanceTimer rate).cnt.toNat ≤ periodTicks rate - 1 := by
  have hperiod := periodTicks_bounds rate
  rw [Regs.advanceTimer_cnt]
  split
  case isTrue => exact Nat.zero_le _
  case isFalse hend =>
    have hone : (1 : Ticks).toNat = 1 := rfl
    rw [atFrameEnd_iff] at hend
    rw [BitVec.toNat_add, hone]
    omega

/-! ### The invariant over one clock edge (R22) -/

theorem Accs.get_zero (c : Channel) : Accs.get ⟨0, 0, 0⟩ c = 0 := by
  cases c <;> rfl

theorem Regs.inv_atReset (rate : Config.TickRate) : (Regs.atReset rate).Inv rate where
  acc_range c := by
    rw [Regs.atReset_acc, Accs.get_zero]
    decide
  min_le_out := le_rfl
  out_le_max := le_rfl
  max_le := Nat.zero_le _
  compare_eq := rfl
  cnt_le := Nat.zero_le _
  cmpActive_eq := ⟨0, Nat.zero_le _, rfl⟩

section
variable {rate : Config.TickRate} {r : Regs}

theorem Regs.Inv.nextAccs_range (h : r.Inv rate) (raw : Raw) (c : Channel) :
    0 ≤ ((nextAccs raw r).get c).toInt ∧ ((nextAccs raw r).get c).toInt ≤ 16368 := by
  rw [nextAccs, Accs.get_put]
  split
  · exact fupd_range (h.acc_range _) raw
  · exact h.acc_range c

/-- SAMPLE keeps the invariant: arbitration restores the angles' items from any accumulators. -/
theorem Regs.Inv.transition (h : r.Inv rate) (raw : Raw) : (r.transition rate raw).Inv rate where
  acc_range := h.nextAccs_range raw
  min_le_out := (resolve_ordered _ _ _).1
  out_le_max := (resolve_ordered _ _ _).2
  max_le := arbitrate_hi_le _
  compare_eq := rfl
  cnt_le := h.cnt_le
  cmpActive_eq := h.cmpActive_eq

theorem Regs.Inv.out_le (h : r.Inv rate) : r.outAngle.toNat ≤ 179 :=
  h.out_le_max.trans h.max_le

/-- TICK keeps the invariant: CMP_ACTIVE only ever takes COMPARE, which is A2C of OUT_ANGLE. -/
theorem Regs.Inv.advanceTimer (h : r.Inv rate) : (r.advanceTimer rate).Inv rate where
  acc_range := by simpa using h.acc_range
  min_le_out := by simpa using h.min_le_out
  out_le_max := by simpa using h.out_le_max
  max_le := by simpa using h.max_le
  compare_eq := by simpa using h.compare_eq
  cnt_le := Regs.advanceTimer_cnt_le h.cnt_le
  cmpActive_eq := by
    rw [Regs.advanceTimer_cmpActive]
    split
    · exact ⟨r.outAngle, h.out_le, h.compare_eq⟩
    · exact h.cmpActive_eq

/-- START is in no item of the invariant. -/
theorem Regs.Inv.withStart (h : r.Inv rate) (b : Bool) : Regs.Inv rate { r with start := b } :=
  ⟨h.acc_range, h.min_le_out, h.out_le_max, h.max_le, h.compare_eq, h.cnt_le, h.cmpActive_eq⟩

theorem Regs.edge_of_rst {iv : InVec} (h : iv.rst = true) : r.edge rate iv = Regs.atReset rate := by
  rw [Regs.edge, if_pos h]

theorem Regs.Inv.edge (h : r.Inv rate) (iv : InVec) : (r.edge rate iv).Inv rate := by
  have htick : Regs.Inv rate (if iv.tick then r.advanceTimer rate else r) := by
    split
    · exact h.advanceTimer
    · exact h
  unfold Regs.edge
  split
  · exact Regs.inv_atReset rate
  · split
    · exact htick.transition _
    · exact htick.withStart false

/-- The five items hold at the end of any run that starts with them. -/
theorem Regs.Inv.foldl_edge (h : r.Inv rate) (ivs : List InVec) :
    Regs.Inv rate (ivs.foldl (fun r iv => r.edge rate iv) r) :=
  List.foldlRecOn ivs _ h fun _ hr iv _ => hr.edge iv

/-- CMP_ACTIVE is between the compare values of the least and the largest angle (R97). -/
theorem Regs.Inv.cmpActive_bounds (h : r.Inv rate) :
    (a2c rate 0).toNat ≤ r.cmpActive.toNat ∧ r.cmpActive.toNat ≤ (a2c rate 179).toNat := by
  obtain ⟨a, ha, hcmp⟩ := h.cmpActive_eq
  rw [hcmp]
  exact ⟨a2c_mono rate (Nat.zero_le _), a2c_mono rate ha⟩

end

theorem Channel.code_le (c : Channel) : c.code.toNat ≤ 2 := by
  cases c <;> decide

/-- A run that begins with a RESET edge ends in the invariant, whatever state it began in (R22). -/
theorem runEnd_inv_of_reset {rst : InVec} (hrst : selectsReset rst = true) (ivs : List InVec)
    (s : State) : (runEnd (rst :: ivs) s).regs.Inv s.rate := by
  rw [runEnd_regs, List.foldl_cons, Regs.edge_of_rst hrst]
  exact (Regs.inv_atReset s.rate).foldl_edge ivs

/-- Settles O59: the RESET edge establishes the invariant and every further edge keeps it. -/
theorem reachableStatesMeetInvariant : Obligations.ReachableStatesMeetInvariant := by
  intro rst ivs s hrst
  have hinv := runEnd_inv_of_reset hrst ivs s
  obtain ⟨hlow, hhigh⟩ := hinv.cmpActive_bounds
  exact ⟨_, runOn_eq _ _, hinv.acc_range, Channel.code_le _, hinv.min_le_out, hinv.out_le_max,
    hinv.max_le, hinv.compare_eq, hinv.cnt_le, hinv.cmpActive_eq, hlow, hhigh,
    a2c_max_lt_periodTicks s.rate⟩

end Sys2Proof.Machine
end

section
/-! START (R17): what every edge makes of it, and that no edge reads it. -/

namespace Sys2Proof.Machine

@[simp] theorem Regs.edge_start (rate : Config.TickRate) (iv : InVec) (r : Regs) :
    (r.edge rate iv).start = (iv.rst || iv.sampleReady) := by
  unfold Regs.edge
  split
  · simp [*]
  · split <;> simp [*]

section
variable (rate : Config.TickRate) (iv : InVec) (r : Regs) (b : Bool)

theorem Regs.advanceTimer_withStart :
    Regs.advanceTimer rate { r with start := b } = { r.advanceTimer rate with start := b } := by
  unfold Regs.advanceTimer
  split <;> rfl

/-- START does not enter the next value of any register: an edge overwrites it, and the timer only
carries it. -/
theorem Regs.edge_withStart : Regs.edge rate iv { r with start := b } = r.edge rate iv := by
  have htick : (if iv.tick then Regs.advanceTimer rate { r with start := b }
        else { r with start := b }) =
      { (if iv.tick then r.advanceTimer rate else r) with start := b } := by
    split
    · exact Regs.advanceTimer_withStart rate r b
    · rfl
  unfold Regs.edge
  rw [htick]
  rfl

end

/-- No value that a READ shows depends on START. -/
theorem portRead_withStart (sel : Selector) (r : Regs) (b : Bool) :
    portRead sel { r with start := b } = portRead sel r := by
  cases sel <;> rfl

/-- START is read by no part of an edge: not by the registers, the read port or the events. -/
theorem edge_withStart (iv : InVec) (s : State) (b : Bool) :
    edge iv { s with regs := { s.regs with start := b } } = edge iv s := by
  simp only [edge, Regs.edge_withStart, portRead_withStart]
  rfl

/-- Settles O12: START is overwritten at every edge, and the edge does not depend on it. -/
theorem startFollowsResetOrSample : Obligations.StartFollowsResetOrSample := by
  refine ⟨fun s iv rest sel h => ⟨_, step_of_inputs h, Regs.edge_start _ _ _, rfl⟩, ?_⟩
  intro s b
  rw [step_eq, step_eq]
  exact congrArg _ (edge_withStart s.nextVector s.consume b)

end Sys2Proof.Machine
end

section
/-! The read port (R32, R34): what each selector shows, and what a READ leaves alone. -/

namespace Sys2Proof.Machine

/-! ### The value of a selector (R32) -/

theorem zext16_toNat {w : Nat} (hw : w ≤ 16) (v : BitVec w) : (zext16 v).toNat = v.toNat :=
  BitVec.toNat_setWidth_of_le hw

/-- In range, FREAD is the floor of the accumulator over 16: no bit is lost to the ten kept (R71). -/
theorem fread_eq_div {acc : Acc} (h : 0 ≤ acc.toInt ∧ acc.toInt ≤ 16368) :
    ((fread acc).toNat : Int) = acc.toInt / 16 := by
  have hsign := BitVec.toInt_eq_toNat_cond acc
  have hlt := acc.isLt
  have hnat : acc.toInt = acc.toNat := by
    split at hsign <;> omega
  rw [fread_toNat]
  omega

/-- A selector that shows an accumulator shows the floor of it over 16. -/
theorem zext16_fread_eq_div {acc : Acc} (h : 0 ≤ acc.toInt ∧ acc.toInt ≤ 16368) :
    ((zext16 (fread acc)).toNat : Int) = acc.toInt / 16 := by
  rw [zext16_toNat (by decide), fread_eq_div h]

theorem zext16_toNat_lt {w : Nat} (hw : w ≤ 16) (v : BitVec w) : (zext16 v).toNat < 2 ^ w := by
  rw [zext16_toNat hw]
  exact v.isLt

theorem Selector.code_ofCode : ∀ c : BitVec 3, (Selector.ofCode c).code = c := by decide

/-- Selectors 3 to 7 show an angle or 0. -/
theorem portRead_toNat_lt_of_angle {sel : Selector} (hsel : 3 ≤ sel.code.toNat) (r : Regs) :
    (portRead sel r).toNat < 256 := by
  cases sel with
  | fset | fmin | fmax => exact absurd hsel (by decide)
  | out | amin | amax => exact zext16_toNat_lt (w := 8) (by decide) _
  | rsv6 | rsv7 => exact Nat.zero_lt_succ _

/-- No selector shows more than the ten bits of a filtered value. -/
theorem portRead_toNat_lt (sel : Selector) (r : Regs) : (portRead sel r).toNat < 1024 := by
  cases sel with
  | fset | fmin | fmax => exact zext16_toNat_lt (w := 10) (by decide) _
  | out | amin | amax | rsv6 | rsv7 =>
    exact (portRead_toNat_lt_of_angle (by decide) r).trans (by decide)

/-- Settles O19: the accumulators' range makes FREAD the exact quotient; the rest is the table. -/
theorem portReadTable : Obligations.PortReadTable := by
  intro r
  refine ⟨fun _ => rfl, rfl, rfl, rfl, rfl, rfl, fun rate hinv => ⟨?_, ?_, ?_, ?_, ?_⟩⟩
  · exact zext16_fread_eq_div (hinv.acc_range .set)
  · exact zext16_fread_eq_div (hinv.acc_range .min)
  · exact zext16_fread_eq_div (hinv.acc_range .max)
  · exact fun sel _ => portRead_toNat_lt _ r
  · intro sel hsel
    exact portRead_toNat_lt_of_angle (by rwa [Selector.code_ofCode]) r

/-! ### Runs that differ in `rd_sel` only (R34) -/

/-- Vectors that agree under the mask agree in every bit above `rd_sel`. -/
theorem getLsbD_eq_of_mask {iv iv' : InVec} (h : iv &&& 0xFFF8 = iv' &&& 0xFFF8) {i : Nat}
    (hlow : 3 ≤ i) (hhigh : i < 16) : iv.getLsbD i = iv'.getLsbD i := by
  have hmask : (0xFFF8 : InVec).getLsbD i = true := by
    interval_cases i <;> rfl
  simpa only [BitVec.getLsbD_and, hmask, Bool.and_true] using congrArg (·.getLsbD i) h

theorem adcData_eq_of_mask {iv iv' : InVec} (h : iv &&& 0xFFF8 = iv' &&& 0xFFF8) :
    iv.adcData = iv'.adcData := by
  ext i hi
  simpa [InVec.adcData, BitVec.getElem_extractLsb'] using
    getLsbD_eq_of_mask h (i := 4 + i) (by omega) (by omega)

/-- The states agree in all that the block does beside answering its reader: the registers, the build
and the requests. -/
def State.SameButRead (s s' : State) : Prop :=
  s.regs = s'.regs ∧ s.rate = s'.rate ∧ s.requests = s'.requests

/-- The registers and the requests of an edge are independent of `rd_sel`. -/
theorem State.SameButRead.edge {s s' : State} (hs : s.SameButRead s') {iv iv' : InVec}
    (h : iv &&& 0xFFF8 = iv' &&& 0xFFF8) : (edge iv s).SameButRead (edge iv' s') := by
  obtain ⟨hregs, hrate, hreq⟩ := hs
  have hrst : iv.rst = iv'.rst := getLsbD_eq_of_mask h (by decide) (by decide)
  have hready : iv.sampleReady = iv'.sampleReady := getLsbD_eq_of_mask h (by decide) (by decide)
  have htick : iv.tick = iv'.tick := getLsbD_eq_of_mask h (by decide) (by decide)
  refine ⟨?_, hrate, ?_⟩
  · simp only [edge_regs, Regs.edge, hregs, hrate, hrst, hready, htick, adcData_eq_of_mask h]
  · simp only [edge_requests, requestsAfter, hregs, hreq, hrst, hready]

theorem State.SameButRead.runEnd {ivs ivs' : List InVec}
    (h : List.Forall₂ (fun iv iv' => iv &&& 0xFFF8 = iv' &&& 0xFFF8) ivs ivs') {s s' : State}
    (hs : s.SameButRead s') : (runEnd ivs s).SameButRead (runEnd ivs' s') := by
  induction h generalizing s s' with
  | nil => exact hs
  | cons hiv _ ih => exact ih (State.SameButRead.edge hs hiv)

/-! ### Reads with no SAMPLE or RESET between (R34) -/

/-- No value that a READ shows is held in the frame timer. -/
theorem portRead_advanceTimer (sel : Selector) (rate : Config.TickRate) (r : Regs) :
    portRead sel (r.advanceTimer rate) = portRead sel r := by
  cases sel <;> simp [portRead]

theorem portRead_edge_of_quiet (sel : Selector) (rate : Config.TickRate) (r : Regs) {iv : InVec}
    (hrst : iv.rst = false) (hready : iv.sampleReady = false) :
    portRead sel (r.edge rate iv) = portRead sel r := by
  rw [Regs.edge, hrst, hready]
  simp only [Bool.false_eq_true, if_false, portRead_withStart]
  split
  · exact portRead_advanceTimer sel rate r
  · rfl

theorem portRead_runEnd_of_quiet (sel : Selector) {ivs : List InVec}
    (hquiet : ∀ iv ∈ ivs, iv.rst = false ∧ iv.sampleReady = false) (s : State) :
    portRead sel (runEnd ivs s).regs = portRead sel s.regs := by
  rw [runEnd_regs]
  refine List.foldlRecOn (motive := fun r => portRead sel r = portRead sel s.regs) ivs _ rfl ?_
  intro r hr iv hmem
  obtain ⟨hrst, hready⟩ := hquiet iv hmem
  exact (portRead_edge_of_quiet sel s.rate r hrst hready).trans hr

/-- Settles O20: no part of an edge reads `rd_sel`, and only SAMPLE and RESET write what a READ
shows. -/
theorem readsHaveNoSideEffect : Obligations.ReadsHaveNoSideEffect := by
  refine ⟨fun sel s => ⟨_, exec_read sel s⟩, fun ivs ivs' s h => ?_, fun ivs s sel hquiet => ?_⟩
  · obtain ⟨hregs, _, hreq⟩ := State.SameButRead.runEnd h (s := s) (s' := s) ⟨rfl, rfl, rfl⟩
    exact ⟨_, _, runOn_eq ivs s, runOn_eq ivs' s, hregs, hreq⟩
  · exact ⟨_, runOn_eq ivs s, portRead_runEnd_of_quiet sel hquiet s⟩

end Sys2Proof.Machine
end

section
/-!
The five fields of an input vector (R48): a vector is determined by them, each is a bitwise map, and
what each is in the canonical vectors and in the masks of R49 and R55.
-/

namespace Sys2Proof

/-! ### The fields determine the vector -/

theorem InVec.ext_fields {iv iv' : InVec} (hrst : iv.rst = iv'.rst)
    (hready : iv.sampleReady = iv'.sampleReady) (hdata : iv.adcData = iv'.adcData)
    (htick : iv.tick = iv'.tick) (hsel : iv.rdSel = iv'.rdSel) : iv = iv' := by
  apply BitVec.eq_of_getLsbD_eq
  intro i hi
  rcases Nat.lt_or_ge i 3 with hlow | hlow
  · simpa [InVec.rdSel, hlow] using congrArg (·.getLsbD i) hsel
  rcases Nat.lt_or_ge i 4 with htop | htop
  · obtain rfl : i = 3 := by omega
    exact htick
  rcases Nat.lt_or_ge i 14 with hmid | hmid
  · have hbit := congrArg (·.getLsbD (i - 4)) hdata
    simpa [InVec.adcData, show i - 4 < 10 by omega, Nat.add_sub_cancel' htop] using hbit
  rcases Nat.lt_or_ge i 15 with hnext | hnext
  · obtain rfl : i = 14 := by omega
    exact hready
  · obtain rfl : i = 15 := by omega
    exact hrst

theorem InVec.eq_iff_fields {iv iv' : InVec} :
    iv = iv' ↔ iv.rst = iv'.rst ∧ iv.sampleReady = iv'.sampleReady ∧ iv.adcData = iv'.adcData ∧
      iv.tick = iv'.tick ∧ iv.rdSel = iv'.rdSel := by
  refine ⟨?_, fun ⟨hrst, hready, hdata, htick, hsel⟩ => ext_fields hrst hready hdata htick hsel⟩
  rintro rfl
  exact ⟨rfl, rfl, rfl, rfl, rfl⟩

/-! ### The fields of a bitwise combination -/

section
variable (a b : InVec)

@[simp] theorem InVec.rst_or : (a ||| b).rst = (a.rst || b.rst) := BitVec.getLsbD_or
@[simp] theorem InVec.sampleReady_or :
    (a ||| b).sampleReady = (a.sampleReady || b.sampleReady) := BitVec.getLsbD_or
@[simp] theorem InVec.adcData_or : (a ||| b).adcData = a.adcData ||| b.adcData :=
  BitVec.extractLsb'_or
@[simp] theorem InVec.tick_or : (a ||| b).tick = (a.tick || b.tick) := BitVec.getLsbD_or
@[simp] theorem InVec.rdSel_or : (a ||| b).rdSel = a.rdSel ||| b.rdSel := BitVec.extractLsb'_or

@[simp] theorem InVec.rst_and : (a &&& b).rst = (a.rst && b.rst) := BitVec.getLsbD_and
@[simp] theorem InVec.sampleReady_and :
    (a &&& b).sampleReady = (a.sampleReady && b.sampleReady) := BitVec.getLsbD_and
@[simp] theorem InVec.adcData_and : (a &&& b).adcData = a.adcData &&& b.adcData :=
  BitVec.extractLsb'_and
@[simp] theorem InVec.tick_and : (a &&& b).tick = (a.tick && b.tick) := BitVec.getLsbD_and
@[simp] theorem InVec.rdSel_and : (a &&& b).rdSel = a.rdSel &&& b.rdSel := BitVec.extractLsb'_and

end

/-! ### The fields of a word written out -/

section
variable (n : Nat)

@[simp] theorem InVec.rst_ofNat :
    InVec.rst (BitVec.ofNat 16 n) = decide (n / 32768 % 2 = 1) := by
  rw [InVec.rst, BitVec.getLsbD_ofNat, Nat.testBit_eq_decide_div_mod_eq]
  rfl
@[simp] theorem InVec.sampleReady_ofNat :
    InVec.sampleReady (BitVec.ofNat 16 n) = decide (n / 16384 % 2 = 1) := by
  rw [InVec.sampleReady, BitVec.getLsbD_ofNat, Nat.testBit_eq_decide_div_mod_eq]
  rfl
@[simp] theorem InVec.adcData_ofNat :
    InVec.adcData (BitVec.ofNat 16 n) = BitVec.ofNat 10 (n % 65536 / 16) := by
  rw [InVec.adcData, BitVec.extractLsb', BitVec.toNat_ofNat, Nat.shiftRight_eq_div_pow]
@[simp] theorem InVec.tick_ofNat :
    InVec.tick (BitVec.ofNat 16 n) = decide (n / 8 % 2 = 1) := by
  rw [InVec.tick, BitVec.getLsbD_ofNat, Nat.testBit_eq_decide_div_mod_eq]
  rfl
@[simp] theorem InVec.rdSel_ofNat : InVec.rdSel (BitVec.ofNat 16 n) = BitVec.ofNat 3 n := by
  apply BitVec.eq_of_toNat_eq
  simp [InVec.rdSel]

end

/-- The mask of `rd_sel` keeps all of it. -/
@[simp] theorem rdSel_mask (c : BitVec 3) : c &&& 7#3 = c := BitVec.and_allOnes

end Sys2Proof
end

section
/-!
Decode and encode agree (R48, R49, R55, R59): the fields of each canonical vector, the selections
that a vector can make, and the two directions of the round trip.
-/

namespace Sys2Proof

/-! ### The codes of the selectors (R54) -/

@[simp] theorem Selector.ofCode_code (sel : Selector) : Selector.ofCode sel.code = sel := by
  cases sel <;> rfl

theorem Selector.ofCode_eq_iff {c : BitVec 3} {sel : Selector} :
    Selector.ofCode c = sel ↔ c = sel.code := by
  constructor
  · rintro rfl
    exact (Machine.Selector.code_ofCode c).symm
  · rintro rfl
    exact Selector.ofCode_code sel

@[simp] theorem Selector.selector_instr (sel : Selector) : sel.instr.selector = sel := by
  cases sel <;> rfl

theorem Selector.instr_inj {sel sel' : Selector} : sel.instr = sel'.instr ↔ sel = sel' :=
  ⟨fun h => by simpa using congrArg Instr.selector h, congrArg Selector.instr⟩

@[simp] theorem Selector.instr_group (sel : Selector) : sel.instr.group = .read := by
  cases sel <;> rfl

theorem encode_instr (sel : Selector) : encode sel.instr = sel.code.setWidth 16 := by
  cases sel <;> rfl

/-! ### The selections that a vector can make (R49, R50) -/

theorem Instr.group_eq_control_iff {i : Instr} :
    i.group = .control ↔ i = .reset ∨ (∃ raw, i = .sample raw) ∨ i = .idle := by
  cases i <;> simp [Instr.group]

theorem Instr.group_eq_read_iff {i : Instr} : i.group = .read ↔ ∃ sel : Selector, i = sel.instr := by
  constructor
  · intro h
    refine ⟨i.selector, ?_⟩
    cases i with
    | reset | sample | idle | tick => exact absurd h (by simp [Instr.group])
    | readFset | readFmin | readFmax | readOut | readAmin | readAmax | readRsv6 | readRsv7 => rfl
  · rintro ⟨sel, rfl⟩
    exact sel.instr_group

/-! ### The fields of the canonical vectors (R55) -/

theorem encode_reset : encode .reset = 0x8000 := rfl
theorem encode_idle : encode .idle = 0x0000 := rfl
theorem encode_tick : encode .tick = 0x0008 := rfl

/-- The vector of a control operation is 0 in the fields of the other two groups. -/
theorem encode_control_otherFields {c : Instr} (h : c.group = .control) :
    (encode c).tick = false ∧ (encode c).rdSel = 0 := by
  rcases Instr.group_eq_control_iff.1 h with rfl | ⟨raw, rfl⟩ | rfl
  · decide
  · constructor
    · simp [encode, InVec.tick]
    · ext i hi
      interval_cases i <;> simp [encode, InVec.rdSel]
  · decide

/-- The vector of a READ is 0 in the fields of the other two groups. -/
theorem encode_read_fields (sel : Selector) :
    (encode sel.instr).rst = false ∧ (encode sel.instr).sampleReady = false ∧
      (encode sel.instr).adcData = 0 ∧ (encode sel.instr).tick = false ∧
      (encode sel.instr).rdSel = sel.code := by
  cases sel <;> decide

/-- So each group's fields of a selection's vector come from that group's operation alone. -/
theorem encodeSelection_fields {c : Instr} {t : Option Instr} (sel : Selector)
    (hc : c.group = .control) (ht : t = none ∨ t = some .tick) :
    (encodeSelection ⟨c, t, sel.instr⟩).rst = (encode c).rst ∧
      (encodeSelection ⟨c, t, sel.instr⟩).sampleReady = (encode c).sampleReady ∧
      (encodeSelection ⟨c, t, sel.instr⟩).adcData = (encode c).adcData ∧
      (encodeSelection ⟨c, t, sel.instr⟩).tick = t.isSome ∧
      (encodeSelection ⟨c, t, sel.instr⟩).rdSel = sel.code := by
  rcases ht with rfl | rfl <;>
    simp [encodeSelection, encode_tick, encode_control_otherFields hc, encode_read_fields]

/-! ### Which operation each group decodes to (R49) -/

section
variable (iv : InVec)

theorem decodeControl_eq_reset_iff : decodeControl iv = .reset ↔ iv.rst = true := by
  unfold decodeControl
  split
  · simp [*]
  · split <;> simp [*]

theorem decodeControl_eq_sample_iff (raw : Raw) :
    decodeControl iv = .sample raw ↔
      iv.rst = false ∧ iv.sampleReady = true ∧ iv.adcData = raw := by
  unfold decodeControl
  split
  · simp [*]
  · split <;> simp [*]

theorem decodeControl_eq_idle_iff :
    decodeControl iv = .idle ↔ iv.rst = false ∧ iv.sampleReady = false := by
  unfold decodeControl
  split
  · simp [*]
  · split <;> simp [*]

theorem decodeTimer_eq_tick_iff :
    decodeTimer iv = some .tick ↔ iv.rst = false ∧ iv.tick = true := by
  unfold decodeTimer
  split
  · simp [*]
  · split <;> simp [*]

theorem decodeTimer_eq_none_iff :
    decodeTimer iv = none ↔ ¬ (iv.rst = false ∧ iv.tick = true) := by
  unfold decodeTimer
  split
  · simp [*]
  · split <;> simp [*]

theorem decodeRead_eq_iff (sel : Selector) : decodeRead iv = sel.instr ↔ iv.rdSel = sel.code := by
  rw [decodeRead, Selector.instr_inj, Selector.ofCode_eq_iff]

/-- The control slot is RESET, SAMPLE or IDLE. -/
theorem decodeControl_group : (decodeControl iv).group = .control := by
  unfold decodeControl
  split
  · rfl
  · split <;> rfl

theorem decodeTimer_none_or_tick : decodeTimer iv = none ∨ decodeTimer iv = some .tick := by
  rw [decodeTimer_eq_none_iff, decodeTimer_eq_tick_iff]
  exact (Decidable.em _).symm

/-- Every vector makes a well-formed selection. -/
theorem decode_wf : (decode iv).wf := by
  refine ⟨decodeControl_group iv, decodeTimer_none_or_tick iv, Selector.instr_group _, ?_⟩
  intro hreset
  have hrst := (decodeControl_eq_reset_iff iv).1 hreset
  exact (decodeTimer_eq_none_iff iv).2 (by simp [hrst])

end

/-! ### The round trip -/

theorem decodeControl_encode {c : Instr} (h : c.group = .control) : decodeControl (encode c) = c := by
  rcases Instr.group_eq_control_iff.1 h with rfl | ⟨raw, rfl⟩ | rfl
  · rfl
  · exact (decodeControl_eq_sample_iff _ raw).2 (encode_sample_fields raw)
  · rfl

/-- No bit that an operation uses is dropped: each group finds its own fields in the OR of the
canonical vectors. -/
theorem decode_encodeSelection {sel : Selection} (h : sel.wf) :
    decode (encodeSelection sel) = sel := by
  obtain ⟨c, t, read⟩ := sel
  obtain ⟨hc, ht, hread, hreset⟩ := h
  obtain ⟨sel, rfl⟩ := Instr.group_eq_read_iff.1 hread
  obtain ⟨hrst, hready, hdata, htick, hsel⟩ := encodeSelection_fields sel hc ht
  have hcontrol := decodeControl_encode hc
  apply Selection.ext
  · calc decodeControl (encodeSelection ⟨c, t, sel.instr⟩)
      _ = decodeControl (encode c) := by simp only [decodeControl, hrst, hready, hdata]
      _ = c := hcontrol
  · change decodeTimer _ = t
    rcases ht with rfl | rfl
    · rw [decodeTimer_eq_none_iff, htick]
      simp
    · have hnot : (encode c).rst = false := by
        rw [← Bool.not_eq_true, ← decodeControl_eq_reset_iff, hcontrol]
        exact fun hres => Option.some_ne_none _ (hreset hres)
      exact (decodeTimer_eq_tick_iff _).2 ⟨hrst.trans hnot, htick⟩
  · exact (decodeRead_eq_iff _ sel).2 hsel

/-- The fields of the canonical form of a vector. -/
theorem InVec.canonical_fields (iv : InVec) :
    iv.canonical.rst = iv.rst ∧ iv.canonical.sampleReady = (!iv.rst && iv.sampleReady) ∧
      iv.canonical.adcData = (if !iv.rst && iv.sampleReady then iv.adcData else 0) ∧
      iv.canonical.tick = (!iv.rst && iv.tick) ∧ iv.canonical.rdSel = iv.rdSel := by
  unfold InVec.canonical
  split
  · simp [*]
  · split <;> simp [*]

/-- The fields of the canonical vector of what the control group decodes to. -/
theorem encode_decodeControl_fields (iv : InVec) :
    (encode (decodeControl iv)).rst = iv.rst ∧
      (encode (decodeControl iv)).sampleReady = (!iv.rst && iv.sampleReady) ∧
      (encode (decodeControl iv)).adcData =
        (if !iv.rst && iv.sampleReady then iv.adcData else 0) := by
  unfold decodeControl
  split
  · simp [encode_reset, *]
  · split
    · simp [encode_sample_fields, *]
    · simp [encode_idle, *]

theorem decodeTimer_isSome (iv : InVec) : (decodeTimer iv).isSome = (!iv.rst && iv.tick) := by
  unfold decodeTimer
  split
  · simp [*]
  · split <;> simp [*]

/-- The encoder writes 0 in every field that the operations ignore, and the rest as it was. -/
theorem encodeSelection_decode (iv : InVec) : encodeSelection (decode iv) = iv.canonical := by
  have hfields := encodeSelection_fields (Selector.ofCode iv.rdSel) (decodeControl_group iv)
    (decodeTimer_none_or_tick iv)
  simp only [InVec.eq_iff_fields, decode, decodeRead, hfields, encode_decodeControl_fields,
    decodeTimer_isSome, Machine.Selector.code_ofCode, InVec.canonical_fields, and_self]

/-- Settles O3: the groups' fields are disjoint, so each direction is read off field by field. -/
theorem selectionsRoundTrip : Obligations.SelectionsRoundTrip :=
  ⟨fun _ h => decode_encodeSelection h, fun iv => ⟨decode_wf iv, encodeSelection_decode iv⟩⟩

end Sys2Proof
end

section
/-!
What the fields mean to a clock edge (R49, R55): each row of the opcode table as a test of the fields,
the vectors that make the same step, and the stimulus lines (R59, R60).
-/

namespace Sys2Proof.Machine

/-! ### The rows of the opcode table as tests of the fields (R49, R50) -/

section
variable (iv : InVec)

theorem mask_reset_iff : iv &&& 0x8000 = 0x8000 ↔ iv.rst = true := by
  simp [InVec.eq_iff_fields]

theorem mask_sample_iff :
    iv &&& 0xC000 = 0x4000 ↔ iv.rst = false ∧ iv.sampleReady = true := by
  simp [InVec.eq_iff_fields]

theorem mask_idle_iff : iv &&& 0xC000 = 0x0000 ↔ iv.rst = false ∧ iv.sampleReady = false := by
  simp [InVec.eq_iff_fields]

theorem mask_tick_iff : iv &&& 0x8008 = 0x0008 ↔ iv.rst = false ∧ iv.tick = true := by
  simp [InVec.eq_iff_fields]

theorem mask_read_iff (sel : Selector) :
    iv &&& 0x0007 = encode sel.instr ↔ iv.rdSel = sel.code := by
  simp [InVec.eq_iff_fields, encode_read_fields]

/-- The read group selects `sel` exactly under the mask and match of its row. -/
theorem decode_read_iff (sel : Selector) :
    (decode iv).read = sel.instr ↔ iv &&& 0x0007 = encode sel.instr :=
  (decodeRead_eq_iff iv sel).trans (mask_read_iff iv sel).symm

end

/-! ### Vectors that make the same step (R55) -/

/-- The step that takes a listed vector. -/
theorem step_feed (s : State) (iv : InVec) (rest : List InVec) :
    step (s.feed (iv :: rest)) = runVector iv ({ s with cycle := s.cycle + 1 }.feed rest) := rfl

/-- A step sees its vector through the operations it selects alone. -/
theorem step_feed_congr {iv iv' : InVec} (h : decode iv = decode iv') (s : State)
    (rest : List InVec) : step (s.feed (iv :: rest)) = step (s.feed (iv' :: rest)) := by
  rw [step_feed, step_feed, runVector, runVector, h]

/-- With `rst` = 1, IV[14:3] is ignored. -/
theorem decode_eq_of_rst {iv iv' : InVec} (h : iv &&& 0x8007 = iv' &&& 0x8007)
    (hrst : iv.rst = true) : decode iv = decode iv' := by
  obtain ⟨hrst', hsel⟩ : iv.rst = iv'.rst ∧ iv.rdSel = iv'.rdSel := by
    simpa [InVec.eq_iff_fields] using h
  rw [hrst] at hrst'
  simp only [decode, decodeControl, decodeTimer, decodeRead, hrst, ← hrst', hsel, if_true]

/-- With `sample_ready` = 0, IV[13:4] is ignored. -/
theorem decode_eq_of_not_sampleReady {iv iv' : InVec} (h : iv &&& 0xC00F = iv' &&& 0xC00F)
    (hready : iv.sampleReady = false) : decode iv = decode iv' := by
  obtain ⟨hrst, hready', htick, hsel⟩ : iv.rst = iv'.rst ∧ iv.sampleReady = iv'.sampleReady ∧
      iv.tick = iv'.tick ∧ iv.rdSel = iv'.rdSel := by
    simpa [InVec.eq_iff_fields] using h
  rw [hready] at hready'
  simp only [decode, decodeControl, decodeTimer, decodeRead, hrst, hready, ← hready', htick, hsel,
    Bool.false_eq_true, if_false]

theorem step_feed_eq_of_rst {iv iv' : InVec} (h : iv &&& 0x8007 = iv' &&& 0x8007)
    (hrst : iv.rst = true) (s : State) (rest : List InVec) :
    step (s.feed (iv :: rest)) = step (s.feed (iv' :: rest)) :=
  step_feed_congr (decode_eq_of_rst h hrst) s rest

/-- Settles O2: each row's mask picks out the fields that its group decodes, and a step depends on
its vector through what it decodes to. -/
theorem vectorSelectsByFieldGroups : Obligations.VectorSelectsByFieldGroups := by
  refine ⟨fun iv => ⟨?_, fun raw => ?_, ?_, ?_, ?_, ?_⟩, fun s iv iv' rest h hrst => ?_,
    fun s iv rest => ⟨_, step_of_inputs rfl, rfl⟩⟩
  · exact (decodeControl_eq_reset_iff iv).trans (mask_reset_iff iv).symm
  · rw [mask_sample_iff, and_assoc]
    exact decodeControl_eq_sample_iff iv raw
  · exact (decodeControl_eq_idle_iff iv).trans (mask_idle_iff iv).symm
  · exact (decodeTimer_eq_tick_iff iv).trans (mask_tick_iff iv).symm
  · exact (decodeTimer_eq_none_iff iv).trans (mask_tick_iff iv).not.symm
  · have hread := decode_read_iff iv
    exact ⟨hread .fset, hread .fmin, hread .fmax, hread .out, hread .amin, hread .amax, hread .rsv6,
      hread .rsv7⟩
  · exact step_feed_eq_of_rst h hrst s rest

/-- Settles O4: the ignored fields do not enter what a vector decodes to. -/
theorem ignoredFieldsHaveNoEffect : Obligations.IgnoredFieldsHaveNoEffect := by
  refine ⟨fun s iv iv' rest h hrst => step_feed_eq_of_rst h hrst s rest,
    fun s iv iv' rest h hready => step_feed_congr (decode_eq_of_not_sampleReady h hready) s rest,
    encode_reset, encode_idle, encode_tick, fun _ => rfl, encode_instr, ?_, ?_⟩
  · exact fun iv hsel => (decodeRead_eq_iff iv .fset).2 hsel
  · exact fun s => ⟨_, exec_read .fset s, rfl⟩

/-! ### The stimulus lines (R59, R60) -/

/-- What a stimulus line of operations selects. -/
def lineSelection (n : Option Raw) (t : Bool) (sel : Option Selector) : Selection :=
  ⟨n.elim .idle .sample, if t then some .tick else none, (sel.getD .fset).instr⟩

theorem lineSelection_wf (n : Option Raw) (t : Bool) (sel : Option Selector) :
    (lineSelection n t sel).wf := by
  refine ⟨?_, ?_, Selector.instr_group _, ?_⟩
  · cases n <;> rfl
  · cases t
    · exact .inl rfl
    · exact .inr rfl
  · intro hreset
    cases n <;> exact absurd hreset (by simp [lineSelection])

theorem sampleBits_eq (n : Option Raw) : sampleBits n = encode (n.elim .idle .sample) := by
  cases n <;> rfl

theorem readBits_eq (sel : Option Selector) : readBits sel = encode (sel.getD .fset).instr := by
  cases sel with
  | none => rfl
  | some sel => exact (encode_instr sel).symm

/-- A line assembles into the canonical vector of what it names. -/
theorem assemble_ops (n : Option Raw) (t : Bool) (sel : Option Selector) :
    assemble (.ops n t sel) = encodeSelection (lineSelection n t sel) := by
  rw [assemble, sampleBits_eq, readBits_eq]
  cases t <;> rfl

/-- A line that names SAMPLE alone. -/
theorem assemble_sample (raw : Raw) :
    assemble (.ops (some raw) false none) = encode (.sample raw) := BitVec.or_zero

/-- Settles O6: a line's vector is the encoding of a well-formed selection, which the round trip
gives back; the pseudo-operations are expanded line by line. -/
theorem stimulusLinesAssemble : Obligations.StimulusLinesAssemble := by
  refine ⟨by decide, by decide, fun n t sel => ?_, fun rate n s m x => ⟨?_, ?_, ?_, ?_, ?_⟩⟩
  · rw [assemble_ops, decode_encodeSelection (lineSelection_wf n t sel)]
    cases n <;> cases sel <;> rfl
  · exact List.map_replicate
  · exact List.map_replicate
  · exact List.map_replicate
  · simp only [expand, List.map_cons, List.map_nil, assemble_sample]
  · rfl

end Sys2Proof.Machine
end

section
/-!
One clock edge, register by register (R46, R63, R134): the timer half and the pipeline half of an edge
that does not reset, and the sequential readings that are equivalent to it.
-/

namespace Sys2Proof.Machine

/-! ### The two halves of an edge without RESET (R46) -/

section
variable {rate : Config.TickRate} {iv : InVec} {r : Regs}

/-- The frame timer of an edge that ticks is TICK's, whatever the control group selects. -/
theorem Regs.edge_timer_of_tick (hrst : iv.rst = false) (htick : iv.tick = true) :
    (r.edge rate iv).cnt = (r.advanceTimer rate).cnt ∧
      (r.edge rate iv).cmpActive = (r.advanceTimer rate).cmpActive := by
  rw [Regs.edge, hrst, htick, if_neg Bool.false_ne_true, if_pos rfl]
  split <;> exact ⟨rfl, rfl⟩

/-- An edge that does not tick leaves the frame timer, whatever the control group selects. -/
theorem Regs.edge_timer_of_not_tick (hrst : iv.rst = false) (htick : iv.tick = false) :
    (r.edge rate iv).cnt = r.cnt ∧ (r.edge rate iv).cmpActive = r.cmpActive := by
  rw [Regs.edge, hrst, htick, if_neg Bool.false_ne_true, if_neg Bool.false_ne_true]
  split <;> exact ⟨rfl, rfl⟩

theorem Regs.advanceTimer_samePipeline : (r.advanceTimer rate).samePipeline r := by
  simp [Regs.samePipeline]

/-- SAMPLE reads and writes the same pipeline after a tick as without it. -/
theorem Regs.samePipeline.transition {r' : Regs} (h : r.samePipeline r') (raw : Raw) :
    (r.transition rate raw).samePipeline (r'.transition rate raw) := by
  obtain ⟨hacc, hch, -⟩ := h
  simp [Regs.samePipeline, nextAccs, cur, hacc, hch]

/-- The pipeline of an edge is SAMPLE's, whatever TICK does. -/
theorem Regs.edge_pipeline_of_sample (hrst : iv.rst = false) (hready : iv.sampleReady = true) :
    (r.edge rate iv).samePipeline (r.transition rate iv.adcData) := by
  rw [Regs.edge, hrst, hready, if_neg Bool.false_ne_true, if_pos rfl]
  split
  · exact Regs.advanceTimer_samePipeline.transition _
  · simp [Regs.samePipeline]

/-- The pipeline of an edge without SAMPLE is as it was but for START, whatever TICK does. -/
theorem Regs.edge_pipeline_of_idle (hrst : iv.rst = false) (hready : iv.sampleReady = false) :
    (r.edge rate iv).samePipeline { r with start := false } := by
  rw [Regs.edge, hrst, hready, if_neg Bool.false_ne_true, if_neg Bool.false_ne_true]
  split <;> simp [Regs.samePipeline]

/-- An edge that ticks and samples: the timer first, then the transition. -/
theorem Regs.edge_of_tick_sample (hrst : iv.rst = false) (hready : iv.sampleReady = true)
    (htick : iv.tick = true) :
    r.edge rate iv = (r.advanceTimer rate).transition rate iv.adcData := by
  simp [Regs.edge, hrst, hready, htick]

end

theorem requestsAfter_of_rst {iv : InVec} (h : iv.rst = true) (s : State) :
    requestsAfter iv s = .set :: s.requests := by
  simp [requestsAfter, h]

theorem requestsAfter_of_sample {iv : InVec} (hrst : iv.rst = false)
    (hready : iv.sampleReady = true) (s : State) :
    requestsAfter iv s = adv s.regs.ch :: s.requests := by
  simp [requestsAfter, hrst, hready]

theorem requestsAfter_of_idle {iv : InVec} (hrst : iv.rst = false)
    (hready : iv.sampleReady = false) (s : State) : requestsAfter iv s = s.requests := by
  simp [requestsAfter, hrst, hready]

/-- Settles O9: the timer half and the pipeline half of an edge are independent, and RESET overrides
both. -/
theorem edgeUpdatesTogether : Obligations.EdgeUpdatesTogether := by
  intro s iv rest h
  refine ⟨_, step_of_inputs h, by simp [h], rfl, rfl, rfl, fun hrst => ?_, fun hrst => ?_⟩
  · exact ⟨Regs.edge_of_rst hrst, requestsAfter_of_rst hrst _⟩
  refine ⟨fun htick => ?_, Regs.edge_timer_of_not_tick hrst, fun hready => ?_, fun hready => ?_⟩
  · obtain ⟨hcnt, hcmp⟩ := Regs.edge_timer_of_tick (rate := s.rate) (r := s.regs) hrst htick
    simp only [Regs.advanceTimer_cnt, Regs.advanceTimer_cmpActive, atFrameEnd_iff] at hcnt hcmp
    exact ⟨hcnt, hcmp⟩
  · obtain ⟨hacc, hch, hout, hlo, hhi, hcompare, hstart⟩ :=
      Regs.edge_pipeline_of_sample (rate := s.rate) (r := s.regs) hrst hready
    simp only [edge_regs, State.consume_regs, State.consume_rate, hacc, hout]
    exact ⟨rfl, rfl, hlo, hhi, hcompare, hch, hstart, requestsAfter_of_sample hrst hready _⟩
  · obtain ⟨hacc, hch, hout, hlo, hhi, hcompare, hstart⟩ :=
      Regs.edge_pipeline_of_idle (rate := s.rate) (r := s.regs) hrst hready
    exact ⟨hacc, hout, hlo, hhi, hcompare, hch, hstart, requestsAfter_of_idle hrst hready _⟩

/-- Settles O10: the edge is the transition applied to the ticked registers, and each operation leaves
the other's registers alone. -/
theorem tickThenSample : Obligations.TickThenSample := by
  refine ⟨fun s iv rest hsample htick => ?_, fun s => ?_, fun s raw => ?_⟩
  · simp only [selectsSample_eq, selectsTick_eq, Bool.and_eq_true, Bool.not_eq_true'] at hsample htick
    obtain ⟨hrst, hready⟩ := hsample
    obtain ⟨-, htick⟩ := htick
    refine ⟨_, _, _, exec_tick s, exec_sample _ _, step_of_inputs rfl, ?_, ?_, fun hend => ?_⟩
    · exact Regs.edge_of_tick_sample hrst hready htick
    · simp [requestsAfter_of_sample hrst hready]
    · obtain ⟨-, hcmp⟩ := Regs.edge_timer_of_tick (rate := s.rate) (r := s.regs) hrst htick
      rw [Regs.advanceTimer_cmpActive, if_pos ((atFrameEnd_iff _ _).2 hend)] at hcmp
      exact hcmp
  · exact ⟨_, exec_tick s, Regs.advanceTimer_samePipeline⟩
  · exact ⟨_, exec_sample raw s, rfl, rfl⟩

/-! ### The event-level reading (R61) -/

/-- Every operation answers a next state, and so does every list of them (R130). -/
theorem exec_answers_next (i : Instr) (s : State) : ∃ t, exec i s = .next t := by
  cases i <;> exact ⟨_, rfl⟩

theorem runOps_cons_of_next {i : Instr} {s t : State} (h : exec i s = .next t) (is : List Instr) :
    runOps (i :: is) s = runOps is t := by
  rw [runOps, h]

theorem runOps_answers_next (is : List Instr) (s : State) : ∃ t, runOps is s = .next t := by
  induction is generalizing s with
  | nil => exact ⟨s, rfl⟩
  | cons i is ih =>
    obtain ⟨t, ht⟩ := exec_answers_next i s
    rw [runOps_cons_of_next ht]
    exact ih t

theorem runOps_append_of_next {is : List Instr} {s t : State} (h : runOps is s = .next t)
    (js : List Instr) : runOps (is ++ js) s = runOps js t := by
  induction is generalizing s with
  | nil =>
    obtain rfl : s = t := Host.Outcome.next.inj h
    rfl
  | cons i is ih =>
    obtain ⟨u, hu⟩ := exec_answers_next i s
    rw [runOps_cons_of_next hu] at h
    rw [List.cons_append, runOps_cons_of_next hu]
    exact ih h

theorem step_eq_runOps {s : State} {iv : InVec} {rest : List InVec} (h : s.inputs = iv :: rest) :
    step s = runOps (decode iv).ops { s with inputs := rest, cycle := s.cycle + 1 } := by
  obtain ⟨regs, rate, inputs, cycle, rdData, requests⟩ := s
  obtain rfl : inputs = iv :: rest := h
  rfl

/-- Of the operations of a vector, only the control operation can be IDLE. -/
theorem filter_ne_idle_ops (iv : InVec) : (decode iv).ops.filter (· ≠ .idle) =
    ((decode iv).read :: (decode iv).timer.toList) ++ [(decode iv).control].filter (· ≠ .idle) := by
  obtain ⟨-, htimer, hread, -⟩ := decode_wf iv
  have hne : (decode iv).read ≠ .idle := fun h => by
    rw [Selection.readOk, h] at hread
    exact absurd hread (by decide)
  rcases htimer with ht | ht <;> simp [Selection.ops, ht, hne]

/-- Settles O11: IDLE is the last operation of its vector and only clears START; a vector without it
is its own list of events. -/
theorem eventLevelReading : Obligations.EventLevelReading := by
  intro s iv rest h
  rw [filter_ne_idle_ops]
  by_cases hidle : (decode iv).control = .idle
  · obtain ⟨u, hu⟩ := runOps_answers_next ((decode iv).read :: (decode iv).timer.toList)
      { s with inputs := rest, cycle := s.cycle + 1 }
    obtain ⟨hrst, hready⟩ := (decodeControl_eq_idle_iff iv).1 hidle
    refine ⟨u.setRegs { u.regs with start := false }, u, ?_, ?_, ?_⟩
    · rw [step_eq_runOps h, Selection.ops, ← List.cons_append, runOps_append_of_next hu, hidle]
      rfl
    · simpa [hidle] using hu
    · rw [show iv.getLsbD 15 = false from hrst, show iv.getLsbD 14 = false from hready]
      rfl
  · have hevents : [(decode iv).control].filter (· ≠ .idle) = [(decode iv).control] := by
      simp [hidle]
    refine ⟨edge iv s.consume, edge iv s.consume, step_of_inputs h, ?_, ?_⟩
    · rw [hevents]
      exact (step_eq_runOps h).symm.trans (step_of_inputs h)
    · rw [← show _ = (iv.getLsbD 15 || iv.getLsbD 14) from Regs.edge_start s.rate iv s.regs]
      rfl

end Sys2Proof.Machine
end

section
/-! The outputs of a cycle (R58, R43). -/

namespace Sys2Proof.Machine

/-- The low eight bits of a zero-extended angle are the angle. -/
theorem extractLsb'_zext16 (a : Angle) : (zext16 a).extractLsb' 0 8 = a := by
  apply BitVec.eq_of_toNat_eq
  rw [BitVec.extractLsb'_toNat, zext16_toNat (by decide)]
  exact Nat.mod_eq_of_lt a.isLt

/-- Settles O21: the outputs are the registers, and selector 3 shows OUT_ANGLE. -/
theorem outputsShowRegisters : Obligations.OutputsShowRegisters :=
  fun r _ => ⟨(extractLsb'_zext16 r.outAngle).symm, rfl⟩

end Sys2Proof.Machine
end

section
/-! The mapper's curve (R65 to R68) and the ranges of the intermediates (R9, R75). -/

namespace Sys2Proof.Machine

/-! ### The thresholds of the curve (R68) -/

/-- The mapper reaches an angle exactly at the inputs above that angle's threshold: the rounding of
its last division, said as a linear bound. -/
theorem le_mapAngle_iff (a : Nat) (raw : Raw) :
    a ≤ (mapAngle raw).toNat ↔ 256 * a ≤ raw.toNat / 4 * 180 := by
  rw [mapAngle_toNat, Nat.le_div_iff_mul_le (by decide), Nat.mul_comm]

/-- The inputs of one angle: from its own threshold to below the next angle's. -/
theorem mapAngle_eq_iff (raw : Raw) (a : Angle) :
    mapAngle raw = a ↔
      256 * a.toNat ≤ raw.toNat / 4 * 180 ∧ raw.toNat / 4 * 180 < 256 * (a.toNat + 1) := by
  rw [← le_mapAngle_iff, ← Nat.not_le, ← le_mapAngle_iff, ← BitVec.toNat_inj]
  omega

theorem mapAngle_mono {raw raw' : Raw} (h : raw.toNat ≤ raw'.toNat) :
    (mapAngle raw).toNat ≤ (mapAngle raw').toNat := by
  have hdiv : raw.toNat / 4 ≤ raw'.toNat / 4 := Nat.div_le_div_right h
  rw [le_mapAngle_iff]
  exact ((le_mapAngle_iff _ raw).1 le_rfl).trans (Nat.mul_le_mul_right 180 hdiv)

/-- The mapper reads `raw[9:2]` alone. -/
theorem mapAngle_congr {raw raw' : Raw} (h : raw.toNat / 4 = raw'.toNat / 4) :
    mapAngle raw = mapAngle raw' := by
  apply BitVec.eq_of_toNat_eq
  rw [mapAngle_toNat, mapAngle_toNat, h]

/-- Every angle up to 179 is reached, at the first input on or above its threshold. -/
theorem exists_mapAngle_eq {a : Angle} (h : a.toNat ≤ 179) : ∃ raw : Raw, mapAngle raw = a := by
  refine ⟨BitVec.ofNat 10 (4 * ((256 * a.toNat + 179) / 180)), (mapAngle_eq_iff _ a).2 ?_⟩
  rw [BitVec.toNat_ofNat, Nat.mod_eq_of_lt (by omega)]
  omega

/-! ### The hardware form (R65) -/

theorem and_0x3FC_div_four (raw : Raw) : (raw &&& 0x3FC).toNat / 4 = raw.toNat / 4 := by
  have hraw := raw.isLt
  calc (raw.toNat &&& 1020) / 2 ^ 2
      = raw.toNat / 2 ^ 2 &&& 2 ^ 8 - 1 := Nat.and_div_two_pow
    _ = raw.toNat / 2 ^ 2 := by
        rw [Nat.and_two_pow_sub_one_eq_mod]
        exact Nat.mod_eq_of_lt (by omega)

/-- The 16-bit product does not wrap, so its upper byte is the quotient by 256. -/
theorem mapAngle_eq_extractLsb' (raw : Raw) :
    mapAngle raw = ((raw.extractLsb' 2 8).setWidth 16 * 180 : BitVec 16).extractLsb' 8 8 := by
  have hraw := raw.isLt
  have hq : ((raw.extractLsb' 2 8).setWidth 16).toNat = raw.toNat / 4 := by
    rw [BitVec.toNat_setWidth_of_le (by decide), BitVec.extractLsb'_toNat,
      Nat.shiftRight_eq_div_pow]
    exact Nat.mod_eq_of_lt (by omega)
  have hprod : ((raw.extractLsb' 2 8).setWidth 16 * 180 : BitVec 16).toNat =
      raw.toNat / 4 * 180 := by
    rw [BitVec.toNat_mul, hq]
    exact Nat.mod_eq_of_lt (show raw.toNat / 4 * 180 < 65536 by omega)
  apply BitVec.eq_of_toNat_eq
  rw [mapAngle_toNat, BitVec.extractLsb'_toNat, hprod, Nat.shiftRight_eq_div_pow]
  omega

/-! ### The statements about the mapper -/

/-- Settles O23: the range of the mapper carries over to the pulse width and the compare value, which
are monotone in the angle. -/
theorem mapperRange : Obligations.MapperRange :=
  ⟨fun raw => ⟨mapAngle_le raw, a2us_mono (b := 179) (mapAngle_le raw)⟩,
    fun _ => exists_mapAngle_eq, rfl, fun rate raw => a2c_mono rate (mapAngle_le raw)⟩

/-- Settles O25: each listed run of inputs lies between two thresholds. -/
theorem mapperSteps : Obligations.MapperSteps := by
  refine ⟨fun _ _ => mapAngle_congr, le_mapAngle_iff, fun raw => ?_, by decide⟩
  have hraw := raw.isLt
  have h1 : (1 : Angle).toNat = 1 := rfl
  have h2 : (2 : Angle).toNat = 2 := rfl
  have h90 : (90 : Angle).toNat = 90 := rfl
  have h179 : (179 : Angle).toNat = 179 := rfl
  rw [mapAngle_eq_iff, mapAngle_eq_iff, mapAngle_eq_iff, mapAngle_eq_iff, h1, h2, h90, h179]
  refine ⟨?_, ?_, ?_, ?_⟩ <;> omega

/-- Settles O22: the formula's value is at most 179, so the clamp to 180 changes nothing. -/
theorem mapperFormula : Obligations.MapperFormula := by
  refine ⟨fun raw => ⟨mapAngle_toNat raw, ?_, ?_, mapAngle_eq_extractLsb' raw⟩, by decide⟩
  · have hle := mapAngle_le raw
    rw [← mapAngle_toNat, Nat.min_eq_left (by omega)]
  · exact mapAngle_congr (and_0x3FC_div_four raw).symm

/-- Settles O24: a larger input is above every threshold that a smaller one has reached. -/
theorem mapperMonotone : Obligations.MapperMonotone := fun _ _ => mapAngle_mono

/-! ### The ranges of the intermediates (R9, R75) -/

theorem scaled_range (raw : Raw) : 0 ≤ scaled raw ∧ scaled raw ≤ 16368 := by
  have hraw := raw.isLt
  rw [scaled_eq]
  omega

/-- A next accumulator fits a signed 16-bit register (R75). -/
theorem toInt_ofInt_fupd {acc : Acc} (h : 0 ≤ acc.toInt ∧ acc.toInt ≤ 16368) (raw : Raw) :
    (BitVec.ofInt 16 (fupd acc raw).toInt).toInt = (fupd acc raw).toInt := by
  obtain ⟨hlow, hhigh⟩ := fupd_range h raw
  exact BitVec.toInt_ofInt_eq_self (by decide) (by omega) (by omega)

/-- The product inside A2C at the widest pulse and the fastest tick (R91). -/
theorem a2us_mul_hz_le (rate : Config.TickRate) {a : Angle} (h : a2us a ≤ 2000) :
    a2us a * rate.hz ≤ 6553600000 :=
  Nat.mul_le_mul h (rate_bounds rate).2

/-- Settles O49: function by function, each range from the range of its operands. -/
theorem intermediatesFitTheirWidths : Obligations.IntermediatesFitTheirWidths := by
  refine ⟨fun raw => ?_, fun acc raw h0 h1 => ?_, fun lo hi hlo hhi => ?_, fun rate a ha => ?_⟩
  · have hraw := raw.isLt
    exact ⟨by omega, by omega, mapAngle_le raw, scaled_range raw⟩
  · obtain ⟨hlow, hhigh⟩ := scaled_range raw
    exact ⟨by omega, by omega, toInt_ofInt_fupd ⟨h0, h1⟩ raw⟩
  · rw [midpoint_toNat]
    omega
  · have hus : a2us a ≤ 2000 := a2us_mono (b := 180) ha
    have hprod := a2us_mul_hz_le rate hus
    refine ⟨by omega, hus, hprod, ?_⟩
    rw [a2c_toNat]
    omega

end Sys2Proof.Machine
end

section
/-!
The filter bank (R70 to R76): the update as integer arithmetic, its monotonicity and its rests, the
iterates of an update under a constant sample, and the accumulator that a SAMPLE writes.
-/

namespace Sys2Proof.Machine

/-! ### The smoothing step on the integers (R70) -/

/-- A value moved by the floor of a sixteenth of its distance to a target: what FUPD does to every
accumulator but 0 (`fupd_toInt_of_ne_zero`). -/
def smooth (target i : Int) : Int := i + (target - i) / 16

section
variable {target i : Int}

theorem smooth_mono (target : Int) : Monotone (smooth target) := by
  intro i j h
  unfold smooth
  omega

/-- From above, a step falls, and not below the target. -/
theorem smooth_of_gt (h : target < i) : target ≤ smooth target i ∧ smooth target i < i := by
  unfold smooth
  omega

/-- From below, a step does not fall, and does not pass the target. -/
theorem smooth_of_le (h : i ≤ target) : i ≤ smooth target i ∧ smooth target i ≤ target := by
  unfold smooth
  omega

/-- From below, a step does not reach the target. -/
theorem smooth_lt_of_lt (h : i < target) : smooth target i < target := by
  unfold smooth
  omega

theorem lt_smooth_iff : i < smooth target i ↔ i + 16 ≤ target := by
  unfold smooth
  omega

/-- The rests of a step: the target and the fifteen values below it. -/
theorem smooth_eq_self_iff : smooth target i = i ↔ i ≤ target ∧ target < i + 16 := by
  unfold smooth
  omega

end

/-! ### The update on every 32-bit accumulator (R70) -/

theorem fupd_zero_toInt (raw : Raw) : (fupd 0 raw).toInt = 16 * (raw.toNat : Int) := by
  have hraw := raw.isLt
  rw [fupd_of_zero]
  exact BitVec.toInt_ofInt_eq_self (by decide) (by omega) (by omega)

/-- The bootstrap, as the bits of the accumulator (R70). -/
theorem fupd_zero (raw : Raw) : fupd 0 raw = BitVec.ofNat 32 (16 * raw.toNat) := by
  rw [fupd_of_zero]
  exact BitVec.ofInt_natCast 32 (16 * raw.toNat)

/-- No 32-bit accumulator overflows: the result lies between it and the scaled sample. -/
theorem fupd_toInt_of_ne_zero {acc : Acc} (h : acc ≠ 0) (raw : Raw) :
    (fupd acc raw).toInt = smooth (16 * (raw.toNat : Int)) acc.toInt := by
  have hraw := raw.isLt
  have hlow : -2147483648 ≤ acc.toInt := acc.le_toInt
  have hhigh : acc.toInt < 2147483648 := acc.toInt_lt
  rw [fupd_of_ne_zero h]
  exact BitVec.toInt_ofInt_eq_self (by decide) (by omega) (by omega)

theorem Acc.ne_zero_of_toInt_ne {acc : Acc} (h : acc.toInt ≠ 0) : acc ≠ 0 :=
  BitVec.toInt_ne.1 h

/-- Settles O26: the two cases of FUPD on the integers, and its values at the corners. -/
theorem filterUpdateRule : Obligations.FilterUpdateRule :=
  ⟨fupd_zero_toInt, fun _ raw h => fupd_toInt_of_ne_zero h raw, by decide⟩

section
variable {acc : Acc} {X : Raw}

theorem fupd_of_gt (h : 16 * (X.toNat : Int) < acc.toInt) :
    16 * (X.toNat : Int) ≤ (fupd acc X).toInt ∧ (fupd acc X).toInt < acc.toInt := by
  rw [fupd_toInt_of_ne_zero (Acc.ne_zero_of_toInt_ne (by omega))]
  exact smooth_of_gt h

theorem fupd_of_le (hz : acc ≠ 0) (h : acc.toInt ≤ 16 * (X.toNat : Int)) :
    acc.toInt ≤ (fupd acc X).toInt ∧ (fupd acc X).toInt ≤ 16 * (X.toNat : Int) := by
  rw [fupd_toInt_of_ne_zero hz]
  exact smooth_of_le h

theorem lt_fupd_iff (hz : acc ≠ 0) :
    acc.toInt < (fupd acc X).toInt ↔ acc.toInt + 16 ≤ 16 * (X.toNat : Int) := by
  rw [fupd_toInt_of_ne_zero hz, lt_smooth_iff]

/-- The rests of an initialized filter under a constant sample (R74). -/
theorem fupd_eq_self_iff (hz : acc ≠ 0) : fupd acc X = acc ↔
    acc.toInt ≤ 16 * (X.toNat : Int) ∧ 16 * (X.toNat : Int) < acc.toInt + 16 := by
  rw [← BitVec.toInt_inj, fupd_toInt_of_ne_zero hz, smooth_eq_self_iff]

/-- The scaled sample does not drift, 0 included (R74). -/
theorem fupd_eq_self_of_eq (h : acc.toInt = 16 * (X.toNat : Int)) : fupd acc X = acc := by
  by_cases hz : acc = 0
  · subst hz
    exact BitVec.eq_of_toInt_eq ((fupd_zero_toInt X).trans h.symm)
  · exact (fupd_eq_self_iff hz).2 (by omega)

end

/-- Settles O28: the range, then the update from 0, from below and from above. -/
theorem filterStaysBetween : Obligations.FilterStaysBetween := by
  intro acc raw h0 h1
  obtain ⟨hlow, hhigh⟩ := fupd_range ⟨h0, h1⟩ raw
  refine ⟨hlow, hhigh, ?_, fupd_of_le, fun _ => fupd_of_gt⟩
  rintro rfl
  exact fupd_zero_toInt raw

/-! ### The filtered value (R71) -/

theorem fread_ofNat_mul (raw : Raw) : fread (BitVec.ofNat 32 (16 * raw.toNat)) = raw := by
  have hraw := raw.isLt
  apply BitVec.eq_of_toNat_eq
  rw [fread_toNat, BitVec.toNat_ofNat]
  omega

/-- Right after a bootstrap the filtered value is the sample (R73). -/
theorem fread_fupd_zero (raw : Raw) : fread (fupd 0 raw) = raw := by
  rw [fupd_zero, fread_ofNat_mul]

/-- Settles O27: FREAD drops four bits and, in range, loses none of the others. -/
theorem filteredValueIsAShift : Obligations.FilteredValueIsAShift := by
  refine ⟨fun acc h0 h1 => fread_eq_div ⟨h0, h1⟩, fun raw => ?_, by decide⟩
  rw [Nat.mul_comm]
  exact fread_ofNat_mul raw

/-! ### Settling under a constant sample (R74) -/

/-- A map whose every step rests or lessens a measure comes to rest. -/
theorem exists_iterate_rest {α : Type} {f : α → α} (dist : α → Nat)
    (hstep : ∀ a, f a = a ∨ dist (f a) < dist a) (a : α) :
    ∃ N : Nat, f (f^[N] a) = f^[N] a ∧ ∀ n, N ≤ n → f^[n] a = f^[N] a := by
  rcases hstep a with hrest | hlt
  · exact ⟨0, hrest, fun n _ => Function.iterate_fixed hrest n⟩
  · obtain ⟨N, hrest, hN⟩ := exists_iterate_rest dist hstep (f a)
    refine ⟨N + 1, hrest, fun n hn => ?_⟩
    obtain ⟨m, rfl⟩ := Nat.exists_eq_add_of_le' hn
    exact hN (m + N) (Nat.le_add_left N m)
termination_by dist a

/-- The distance of an accumulator from the scaled sample. -/
def distTo (X : Raw) (acc : Acc) : Nat := (acc.toInt - 16 * (X.toNat : Int)).natAbs

section
variable {acc : Acc} {X : Raw}

/-- An update that is no rest brings the accumulator nearer to the scaled sample. -/
theorem distTo_fupd_lt (hmoves : fupd acc X ≠ acc) : distTo X (fupd acc X) < distTo X acc := by
  unfold distTo
  rcases lt_trichotomy acc.toInt (16 * (X.toNat : Int)) with hlt | heq | hgt
  · by_cases hz : acc = 0
    · subst hz
      rw [fupd_zero_toInt]
      omega
    · have hne : (fupd acc X).toInt ≠ acc.toInt := fun h => hmoves (BitVec.eq_of_toInt_eq h)
      have hbetween := fupd_of_le hz hlt.le
      omega
  · exact absurd (fupd_eq_self_of_eq heq) hmoves
  · have hbetween := fupd_of_gt hgt
    omega

/-- Under a constant sample every accumulator comes to rest. -/
theorem fupd_comes_to_rest (X : Raw) (acc : Acc) :
    ∃ N : Nat, fupd ((fun a => fupd a X)^[N] acc) X = (fun a => fupd a X)^[N] acc ∧
      ∀ n, N ≤ n → (fun a => fupd a X)^[n] acc = (fun a => fupd a X)^[N] acc :=
  exists_iterate_rest (distTo X) (fun _ => or_iff_not_imp_left.2 distTo_fupd_lt) acc

/-- An accumulator on or above the scaled sample stays there. -/
theorem le_fupd_of_le (h : 16 * (X.toNat : Int) ≤ acc.toInt) :
    16 * (X.toNat : Int) ≤ (fupd acc X).toInt := by
  rcases h.eq_or_lt with heq | hlt
  · rw [fupd_eq_self_of_eq heq.symm]
    exact h
  · exact (fupd_of_gt hlt).1

/-- An initialized accumulator below the scaled sample stays so. -/
theorem fupd_lt_of_lt (h : 0 < acc.toInt ∧ acc.toInt < 16 * (X.toNat : Int)) :
    0 < (fupd acc X).toInt ∧ (fupd acc X).toInt < 16 * (X.toNat : Int) := by
  rw [fupd_toInt_of_ne_zero (Acc.ne_zero_of_toInt_ne h.1.ne')]
  exact ⟨h.1.trans_le (smooth_of_le h.2.le).1, smooth_lt_of_lt h.2⟩

/-- From above, the only rest is the scaled sample. -/
theorem fupd_settles_of_gt (h : 16 * (X.toNat : Int) < acc.toInt) :
    ∃ N : Nat, ∀ n, N ≤ n → ((fun a => fupd a X)^[n] acc).toInt = 16 * (X.toNat : Int) := by
  obtain ⟨N, hrest, hN⟩ := fupd_comes_to_rest X acc
  have habove : 16 * (X.toNat : Int) ≤ ((fun a => fupd a X)^[N] acc).toInt :=
    Function.Iterate.rec (fun a : Acc => 16 * (X.toNat : Int) ≤ a.toInt) h.le
      (fun _ => le_fupd_of_le) N
  refine ⟨N, fun n hn => ?_⟩
  rw [hN n hn]
  rcases habove.eq_or_lt with heq | hlt
  · exact heq.symm
  · exact absurd (congrArg BitVec.toInt hrest) (fupd_of_gt hlt).2.ne

/-- From below, the rests are the fifteen values under the scaled sample, whose filtered value is
one less than the sample. -/
theorem fupd_settles_of_lt (hpos : 0 < acc.toInt) (h : acc.toInt < 16 * (X.toNat : Int)) :
    ∃ (N : Nat) (a : Acc), a.toInt < 16 * (X.toNat : Int) ∧
      16 * (X.toNat : Int) < a.toInt + 16 ∧ (fread a).toNat + 1 = X.toNat ∧
      ∀ n, N ≤ n → (fun a => fupd a X)^[n] acc = a := by
  obtain ⟨N, hrest, hN⟩ := fupd_comes_to_rest X acc
  obtain ⟨hpos', hbelow⟩ :=
    Function.Iterate.rec (fun a : Acc => 0 < a.toInt ∧ a.toInt < 16 * (X.toNat : Int))
      ⟨hpos, h⟩ (fun _ => fupd_lt_of_lt) N
  obtain ⟨-, hnear⟩ := (fupd_eq_self_iff (Acc.ne_zero_of_toInt_ne hpos'.ne')).1 hrest
  have hX := X.isLt
  have hread := fread_eq_div (acc := (fun a => fupd a X)^[N] acc) (by omega)
  exact ⟨N, _, hbelow, hnear, by omega, hN⟩

/-- At the scaled sample the filtered value is the sample (R71). -/
theorem fread_of_eq (h : acc.toInt = 16 * (X.toNat : Int)) : fread acc = X := by
  have hX := X.isLt
  have hread := fread_eq_div (acc := acc) (by omega)
  apply BitVec.eq_of_toNat_eq
  omega

end

/-! ### Long runs under a constant sample -/

/-- A run is checked by checkpoints that stand `n` steps apart. -/
theorem iterate_eq_of_checkpoints {α : Type} {f : α → α} {n : Nat} {a : α} (cs : List α)
    (h : (a :: cs).IsChain (fun b c => f^[n] b = c)) : f^[n * cs.length] a = cs.getLastD a := by
  induction cs generalizing a with
  | nil => rfl
  | cons b cs ih =>
    obtain ⟨hab, hcs⟩ := List.isChain_cons_cons.1 h
    rw [List.length_cons, Nat.mul_succ, Function.iterate_add_apply, hab, ih hcs, List.getLastD_cons]

/-- The rise from 8192 under samples of 1000, one update before it ends. -/
theorem iterate_fupd_1000_from_8192 : (fun a => fupd a 1000)^[105] 8192 = 15984 :=
  iterate_eq_of_checkpoints (n := 21) [13982, 15475, 15859, 15957, 15984] (by decide)

/-- The fall from 16000 under samples of 512, one update before it ends. -/
theorem iterate_fupd_512_from_16000 : (fun a => fupd a 512)^[105] 16000 = 8193 :=
  iterate_eq_of_checkpoints (n := 21) [10201, 8705, 8318, 8220, 8193] (by decide)

/-- The decay from 8192 under samples of 0, one update before it ends. -/
theorem iterate_fupd_0_from_8192 : (fun a => fupd a 0)^[105] 8192 = 1 :=
  iterate_eq_of_checkpoints (n := 21) [2108, 539, 134, 29, 1] (by decide)

/-- The decay from 16368 under samples of 0, one update before it ends. -/
theorem iterate_fupd_0_from_16368 : (fun a => fupd a 0)^[116] 16368 = 1 := by
  have h105 : (fun a => fupd a 0)^[105] 16368 = 12 :=
    iterate_eq_of_checkpoints (n := 21) [4215, 1081, 273, 65, 12] (by decide)
  rw [Function.iterate_add_apply _ 11 105, h105]
  decide

/-- The update after a run whose end is known. -/
theorem iterate_succ_eq {α : Type} {f : α → α} {n : Nat} {a b : α} (h : f^[n] a = b) :
    f^[n + 1] a = f b := by
  rw [Function.iterate_succ_apply', h]

/-- Settles O29: on either side the distance to S falls until the accumulator rests; the rests are S
and the fifteen values below it. The settling counts are runs of the update. -/
theorem filterSettles : Obligations.FilterSettles := by
  refine ⟨fun X => ⟨fupd_zero_toInt X, fread_fupd_zero X, fun acc h => ?_, fun acc h _ => ?_,
    fun acc hpos h => ?_⟩, by decide, ?_, ?_, by decide, ?_, ?_⟩
  · exact ⟨fupd_eq_self_of_eq h, fread_of_eq h⟩
  · obtain ⟨hlow, hfall⟩ := fupd_of_gt h
    exact ⟨hfall, hlow, fupd_settles_of_gt h⟩
  · have hz : acc ≠ 0 := Acc.ne_zero_of_toInt_ne hpos.ne'
    exact ⟨(lt_fupd_iff hz).2, fun hnear => (fupd_eq_self_iff hz).2 ⟨h.le, hnear⟩,
      fupd_settles_of_lt hpos h⟩
  · rw [iterate_fupd_1000_from_8192]
    decide
  · exact iterate_succ_eq iterate_fupd_1000_from_8192
  · rw [iterate_fupd_512_from_16000]
    decide
  · exact iterate_succ_eq iterate_fupd_512_from_16000

/-! ### The decay to 0 under samples of 0 (R73, R151) -/

/-- Under samples of 0 the bootstrap and the smoothing step agree, so the update is the integer step
on every accumulator. -/
theorem fupd_sample_zero_toInt (acc : Acc) : (fupd acc 0).toInt = smooth 0 acc.toInt := by
  by_cases hz : acc = 0
  · subst hz
    rfl
  · exact fupd_toInt_of_ne_zero hz 0

theorem iterate_fupd_sample_zero_toInt (n : Nat) (acc : Acc) :
    ((fun a => fupd a 0)^[n] acc).toInt = (smooth 0)^[n] acc.toInt :=
  (show Function.Semiconj BitVec.toInt (fun a => fupd a 0) (smooth 0) from
    fupd_sample_zero_toInt).iterate_right n acc

/-- The integer step is monotone, so every accumulator in range is between the decay from 0, which
rests, and the decay from 16368. -/
theorem iterate_fupd_sample_zero_eq_zero {acc : Acc} (h : 0 ≤ acc.toInt ∧ acc.toInt ≤ 16368)
    {n : Nat} (hn : 117 ≤ n) : (fun a => fupd a 0)^[n] acc = 0 := by
  have hrest : ∀ m, (smooth 0)^[m] 0 = 0 := Function.iterate_fixed rfl
  have hmax : (smooth 0)^[117] 16368 = 0 := by
    have hdecay := iterate_fupd_sample_zero_toInt 117 16368
    rw [iterate_succ_eq iterate_fupd_0_from_16368] at hdecay
    exact hdecay.symm
  have hmono := (smooth_mono 0).iterate n
  have hlow : 0 ≤ (smooth 0)^[n] acc.toInt := (hrest n).symm.le.trans (hmono h.1)
  have hhigh : (smooth 0)^[n] acc.toInt ≤ 0 := by
    obtain ⟨m, rfl⟩ := Nat.exists_eq_add_of_le' hn
    calc (smooth 0)^[m + 117] acc.toInt
      _ ≤ (smooth 0)^[m + 117] 16368 := hmono h.2
      _ = 0 := by rw [Function.iterate_add_apply, hmax, hrest]
  apply BitVec.eq_of_toInt_eq
  rw [iterate_fupd_sample_zero_toInt]
  exact le_antisymm hhigh hlow

/-! ### The accumulator that SAMPLE writes (R73, R76) -/

section
variable (raw : Raw) (r : Regs)

@[simp] theorem nextAccs_get_ch : (nextAccs raw r).get r.ch = fupd (r.acc.get r.ch) raw :=
  Accs.get_put_self _ _ _

theorem nextAccs_get (c : Channel) : (nextAccs raw r).get c =
    if c = r.ch then fupd (r.acc.get r.ch) raw else r.acc.get c :=
  Accs.get_put _ _ _ _

end

/-- Settles O30: SAMPLE updates the accumulator of its channel; the decay is bounded by that from
the largest accumulator. -/
theorem zeroMeansUninitialised : Obligations.ZeroMeansUninitialised := by
  refine ⟨fun s raw => ⟨_, exec_sample raw s, ?_⟩,
    fun acc n h0 h1 hn => iterate_fupd_sample_zero_eq_zero ⟨h0, h1⟩ hn, ?_,
    iterate_succ_eq iterate_fupd_0_from_8192, ?_⟩
  · rw [State.emit_regs, State.setRegs_regs, Regs.transition_acc, nextAccs_get_ch]
    refine ⟨fun hz => ?_, fun hz => fupd_toInt_of_ne_zero hz raw⟩
    rw [hz, fread_fupd_zero]
  · rw [iterate_fupd_0_from_8192]
    decide
  · rw [iterate_fupd_0_from_16368]
    decide

theorem adv_ne_self (c : Channel) : adv c ≠ c := by
  cases c <;> decide

theorem adv_adv_ne_self (c : Channel) : adv (adv c) ≠ c := by
  cases c <;> decide

/-- Settles O31: each SAMPLE writes the accumulator of its own channel, and three in a row have
three different channels. -/
theorem channelsAreIndependent : Obligations.ChannelsAreIndependent := by
  refine ⟨fun s raw => ⟨_, exec_sample raw s, nextAccs_get_ch raw s.regs,
    fun c hne => (nextAccs_get raw s.regs c).trans (if_neg hne)⟩, fun s x y z => ?_⟩
  rw [runOps_cons_of_next (exec_sample x s), runOps_cons_of_next (exec_sample y _),
    runOps_cons_of_next (exec_sample z _)]
  refine ⟨_, rfl, ?_⟩
  simp [nextAccs_get, adv_ne_self, adv_adv_ne_self, (adv_ne_self _).symm,
    (adv_adv_ne_self _).symm]

/-! ### The first three transitions after a RESET (R116) -/

/-- Arbitration on accumulators that each hold a sample scaled. -/
theorem arbitrate_scaled (s m x : Raw) :
    arbitrate ⟨BitVec.ofNat 32 (16 * s.toNat), BitVec.ofNat 32 (16 * m.toNat),
      BitVec.ofNat 32 (16 * x.toNat)⟩ = resolve (mapAngle s) (mapAngle m) (mapAngle x) := by
  simp only [arbitrate, Accs.get_set, Accs.get_min, Accs.get_max, fread_ofNat_mul]

/-- While the upper bound is 0, arbitration takes all angles to half the lower bound, also where
that is 0 and the bounds are not crossed (R85). -/
theorem resolve_hi_zero (set lo : Angle) :
    resolve set lo 0 = ⟨midpoint lo 0, midpoint lo 0, midpoint lo 0⟩ := by
  rcases Nat.eq_zero_or_pos lo.toNat with hz | hpos
  · obtain rfl : lo = 0 := BitVec.eq_of_toNat_eq hz
    have hordered := resolve_ordered set 0 0
    rw [resolve_of_ordered le_rfl] at hordered ⊢
    have hclamp : clampLow (clampHigh set 0) 0 = 0 :=
      BitVec.eq_of_toNat_eq (le_antisymm hordered.2 hordered.1)
    rw [hclamp]
    rfl
  · exact resolve_of_crossed (hi := 0) hpos set

/-- A SAMPLE on an accumulator of 0 puts the scaled sample there. -/
theorem nextAccs_of_zero {r : Regs} (raw : Raw) (h : r.acc.get r.ch = 0) :
    nextAccs raw r = r.acc.put r.ch (BitVec.ofNat 32 (16 * raw.toNat)) := by
  rw [← fupd_zero, ← h]
  rfl

/-- Settles O52: each sample bootstraps its channel, and until the third one the upper bound is
0. -/
theorem firstThreeTransitions : Obligations.FirstThreeTransitions := by
  intro s0 s m x
  have hacc1 : nextAccs s (Regs.atReset s0.rate) = ⟨BitVec.ofNat 32 (16 * s.toNat), 0, 0⟩ :=
    nextAccs_of_zero s rfl
  have hacc2 : nextAccs m ((Regs.atReset s0.rate).transition s0.rate s) =
      ⟨BitVec.ofNat 32 (16 * s.toNat), BitVec.ofNat 32 (16 * m.toNat), 0⟩ := by
    rw [nextAccs_of_zero m rfl, Regs.transition_acc, hacc1]
    rfl
  have hacc3 : nextAccs x (((Regs.atReset s0.rate).transition s0.rate s).transition s0.rate m) =
      ⟨BitVec.ofNat 32 (16 * s.toNat), BitVec.ofNat 32 (16 * m.toNat),
        BitVec.ofNat 32 (16 * x.toNat)⟩ := by
    rw [nextAccs_of_zero x rfl, Regs.transition_acc, hacc2]
    rfl
  have hangles1 : arbitrate (nextAccs s (Regs.atReset s0.rate)) = ⟨0, 0, 0⟩ := by
    rw [hacc1]
    exact (arbitrate_scaled s 0 0).trans (resolve_hi_zero _ _)
  have hangles2 : arbitrate (nextAccs m ((Regs.atReset s0.rate).transition s0.rate s)) =
      ⟨midpoint (mapAngle m) 0, midpoint (mapAngle m) 0, midpoint (mapAngle m) 0⟩ := by
    rw [hacc2]
    exact (arbitrate_scaled s m 0).trans (resolve_hi_zero _ _)
  have hhalf : (midpoint (mapAngle m) 0).toNat = (mapAngle m).toNat / 2 :=
    (midpoint_toNat _ 0).trans (Nat.zero_add _)
  have hout := congrArg Angles.out hangles2
  refine ⟨_, _, _, _, exec_reset s0, exec_sample s _, exec_sample m _, exec_sample x _,
    ⟨rfl, rfl, rfl, rfl, rfl⟩, ⟨hacc1, ?_⟩, ⟨hacc2, ?_⟩, hacc3, ?_, rfl⟩
  · exact ⟨congrArg Angles.out hangles1, congrArg Angles.lo hangles1,
      congrArg Angles.hi hangles1, rfl⟩
  · exact ⟨(congrArg BitVec.toNat hout).trans hhalf,
      (congrArg Angles.lo hangles2).trans hout.symm,
      (congrArg Angles.hi hangles2).trans hout.symm, rfl⟩
  · exact (congrArg arbitrate hacc3).trans (arbitrate_scaled s m x)

end Sys2Proof.Machine
end

section
/-! The channel scheduler (R81, R82): the cursor's order, and what an edge and a run make of it. -/

namespace Sys2Proof.Machine

/-! ### The order of the channels (R81) -/

theorem code_adv (c : Channel) : (adv c).code.toNat = (c.code.toNat + 1) % 3 := by
  cases c <;> rfl

theorem code_iterate_adv (n : Nat) (c : Channel) :
    (adv^[n] c).code.toNat = (c.code.toNat + n) % 3 := by
  induction n with
  | zero => exact (Nat.mod_eq_of_lt (Nat.lt_succ_of_le (Channel.code_le c))).symm
  | succ n ih =>
    rw [Function.iterate_succ_apply', code_adv, ih, Nat.mod_add_mod, Nat.add_assoc]

/-- Settles O32: the three transitions of ADV, and with the codes the step modulo 3. -/
theorem schedulerOrder : Obligations.SchedulerOrder := by
  refine ⟨rfl, rfl, rfl, rfl, rfl, rfl, code_adv, fun c => ?_⟩
  cases c <;> rfl

/-! ### The cursor over an edge and a run without RESET (R82) -/

/-- SAMPLE is the only operation but RESET that moves the cursor. -/
theorem Regs.edge_ch {rate : Config.TickRate} {iv : InVec} {r : Regs}
    (hrst : selectsReset iv = false) :
    (r.edge rate iv).ch = if selectsSample iv then adv r.ch else r.ch := by
  rw [selectsReset_eq] at hrst
  rw [selectsSample_eq, hrst, Bool.not_false, Bool.true_and]
  split
  · next hready =>
    obtain ⟨-, hch, -⟩ := Regs.edge_pipeline_of_sample (rate := rate) (r := r) hrst hready
    exact hch
  · next hready =>
    obtain ⟨-, hch, -⟩ := Regs.edge_pipeline_of_idle (rate := rate) (r := r) hrst
      (Bool.eq_false_iff.2 hready)
    exact hch

theorem runEnd_ch {ivs : List InVec} (hrun : ∀ iv ∈ ivs, selectsReset iv = false) (s : State) :
    (runEnd ivs s).regs.ch = adv^[ivs.countP (fun iv => selectsSample iv)] s.regs.ch := by
  induction ivs generalizing s with
  | nil => rfl
  | cons iv ivs ih =>
    obtain ⟨hrst, hrest⟩ := List.forall_mem_cons.1 hrun
    rw [runEnd_cons, ih hrest, edge_regs, Regs.edge_ch hrst, List.countP_cons]
    split
    · rw [Function.iterate_succ_apply]
    · rfl

/-- Settles O33: each SAMPLE edge applies ADV once, and from SET, where RESET puts the cursor, n ADVs
lead to the code n mod 3. -/
theorem cursorCountsSamples : Obligations.CursorCountsSamples := by
  refine ⟨fun ivs s hrun => ⟨_, runOn_eq ivs s, runEnd_ch hrun s⟩, fun rst ivs s hrst hrun => ?_⟩
  refine ⟨_, runOn_eq (rst :: ivs) s, ?_⟩
  rw [runEnd_cons, runEnd_ch hrun, code_iterate_adv, edge_regs, Regs.edge_of_rst hrst,
    Regs.atReset_ch]
  exact congrArg (· % 3) (Nat.zero_add _)

end Sys2Proof.Machine
end

section
/-! The Bound Arbiter (R85, R87, R88): the clamp on bounds in order, and the collapse of crossed
ones. -/

namespace Sys2Proof.Machine

/-! ### Bounds in order (R85) -/

/-- Steps 1 and 2 of RESOLVE in their order: the lower bound wins over the upper one. -/
theorem clampLow_clampHigh_toNat (set lo hi : Angle) :
    (clampLow (clampHigh set hi) lo).toNat = max lo.toNat (min set.toNat hi.toNat) := by
  rw [clampLow_toNat, clampHigh_toNat]
  split <;> split <;> omega

theorem resolve_out_toNat_of_ordered {lo hi : Angle} (h : lo.toNat ≤ hi.toNat) (set : Angle) :
    (resolve set lo hi).out.toNat = max lo.toNat (min set.toNat hi.toNat) := by
  rw [resolve_of_ordered h]
  exact clampLow_clampHigh_toNat set lo hi

theorem resolve_bounds_of_ordered {lo hi : Angle} (h : lo.toNat ≤ hi.toNat) (set : Angle) :
    (resolve set lo hi).lo = lo ∧ (resolve set lo hi).hi = hi := by
  rw [resolve_of_ordered h]
  exact ⟨rfl, rfl⟩

theorem resolve_out_of_inside {set lo hi : Angle} (hlo : lo.toNat ≤ set.toNat)
    (hhi : set.toNat ≤ hi.toNat) : (resolve set lo hi).out = set := by
  apply BitVec.eq_of_toNat_eq
  rw [resolve_out_toNat_of_ordered (hlo.trans hhi), min_eq_left hhi, max_eq_right hlo]

/-! ### Crossed bounds (R85, R87) -/

/-- The midpoint of crossed bounds lies between them: with floor halving it can be the smaller one
and is never the larger one. -/
theorem midpoint_of_crossed {lo hi : Angle} (h : hi.toNat < lo.toNat) :
    hi.toNat ≤ (midpoint lo hi).toNat ∧ (midpoint lo hi).toNat < lo.toNat := by
  rw [midpoint_toNat]
  omega

/-! ### The statements about the arbiter -/

/-- Settles O34: with bounds in order the output is the clamp of steps 1 and 2; with crossed bounds
the three results are the midpoint, in which the set angle does not occur. -/
theorem arbiterClampsOrCollapses : Obligations.ArbiterClampsOrCollapses := by
  refine fun set lo hi => ⟨fun h => ?ordered, fun h => ?crossed⟩
  case ordered =>
    exact ⟨resolve_out_toNat_of_ordered h set, resolve_bounds_of_ordered h set⟩
  case crossed =>
    rw [resolve_of_crossed h set]
    exact ⟨midpoint_toNat lo hi, rfl, rfl, resolve_of_crossed h⟩

/-- Settles O35: the result is in order on any arguments, so a bound on its upper bound holds of all
three angles. -/
theorem arbiterResultIsBounded : Obligations.ArbiterResultIsBounded := by
  intro set lo hi
  obtain ⟨hlo_out, hout_hi⟩ := resolve_ordered set lo hi
  refine ⟨hlo_out, hout_hi, fun h => ?ordered, fun h => ?crossed, fun N _ hlo hhi => ?largest⟩
  case ordered =>
    obtain ⟨hlo, hhi⟩ := resolve_bounds_of_ordered h set
    rw [hlo] at hlo_out
    rw [hhi] at hout_hi
    exact ⟨hlo, hhi, hlo_out, hout_hi, resolve_out_of_inside⟩
  case crossed =>
    rw [resolve_of_crossed h]
    exact ⟨rfl, rfl, midpoint_of_crossed h⟩
  case largest =>
    have hhi_N := resolve_hi_le set hlo hhi
    exact ⟨hout_hi.trans hhi_N, (hlo_out.trans hout_hi).trans hhi_N, hhi_N⟩

/-- Settles O36: the first example collapses, the other two clamp to the upper and to the lower
bound. -/
theorem arbiterExamples : Obligations.ArbiterExamples := by
  refine ⟨?_, ?_, ?_⟩
  · exact resolve_of_crossed (by decide) 90
  · exact resolve_of_ordered (by decide) 170
  · exact resolve_of_ordered (by decide) 5

end Sys2Proof.Machine
end

section
/-!
The pulse width and the compare value (R90, R91, R94): the curve of A2US and A2C, and the length of
the frame they have to fit.
-/

namespace Sys2Proof.Machine

/-! ### The pulse width (R90) -/

theorem le_a2us (a : Angle) : 1000 ≤ a2us a := by
  rw [a2us_eq]
  omega

theorem a2us_le {a : Angle} (h : a.toNat ≤ 180) : a2us a ≤ 2000 :=
  a2us_mono (b := 180) h

/-- Settles O38: the formula is A2US's definition, and its ends bound it. -/
theorem pulseWidthFormula : Obligations.PulseWidthFormula :=
  ⟨fun a h => ⟨a2us_eq a, le_a2us a, a2us_le h⟩, rfl, rfl, rfl, rfl, rfl, rfl, rfl⟩

/-- A2US is the line from 1000 to 2000 microseconds rounded down, so it meets the line where 180
divides 1000 times the angle. -/
theorem a2us_under_line (a : Angle) :
    180 * a2us a ≤ 180000 + 1000 * a.toNat ∧ 180000 + 1000 * a.toNat < 180 * a2us a + 180 ∧
      (180 * a2us a = 180000 + 1000 * a.toNat ↔ a.toNat % 9 = 0) := by
  rw [a2us_eq]
  omega

/-! ### The compare value (R91) -/

section
variable (rate : Config.TickRate) (a : Angle)

theorem a2c_eq_ofNat : a2c rate a = BitVec.ofNat 16 (a2us a * rate.hz / 1000000) := rfl

/-- A2C is A2US in ticks, rounded down to a whole tick. -/
theorem a2c_within_one_tick :
    (a2c rate a).toNat * 1000000 ≤ a2us a * rate.hz ∧
      a2us a * rate.hz < ((a2c rate a).toNat + 1) * 1000000 := by
  rw [a2c_toNat]
  omega

end

section
variable {rate : Config.TickRate} {a : Angle}

theorem a2c_of_megahertz {M : Nat} (h : rate.hz = M * 1000000) :
    (a2c rate a).toNat = a2us a * M := by
  rw [a2c_toNat, h, ← Nat.mul_assoc]
  exact Nat.mul_div_cancel _ (by decide)

/-- Even the pulse of 2000 microseconds is a tenth of the 20000 of a frame, and a frame has a tick. -/
theorem a2c_lt_periodTicks (h : a.toNat ≤ 180) : (a2c rate a).toNat < periodTicks rate := by
  have hus : a2us 180 = 2000 := rfl
  have hlow := (rate_bounds rate).1
  refine (a2c_mono rate (b := 180) h).trans_lt ?_
  rw [a2c_toNat, hus, periodTicks_eq]
  omega

/-- The shortest pulse, 1000 microseconds, lasts a tick from 1000 ticks per second on. -/
theorem hz_lt_of_a2c_eq_zero (h : a2c rate a = 0) : rate.hz < 1000 := by
  obtain ⟨-, hlt⟩ := a2c_within_one_tick rate a
  have hprod : 1000 * rate.hz ≤ a2us a * rate.hz :=
    Nat.mul_le_mul_right _ (le_a2us a)
  have hzero : (0 : Ticks).toNat = 0 := rfl
  rw [h, hzero] at hlt
  omega

end

/-- Settles O40: no bit of the quotient is lost, and a whole number of megahertz cancels. -/
theorem compareConversion : Obligations.CompareConversion := by
  refine ⟨fun rate a _ => ⟨a2c_toNat rate a, fun M => a2c_of_megahertz⟩, fun rate h => ?_,
    fun rate h => ?_⟩
  · simp only [a2c_eq_ofNat, h]
    decide
  · simp only [a2c_eq_ofNat, h]
    decide

/-- SAMPLE's output angle is at most 179, as its upper bound is (R66, R87). -/
theorem arbitrate_out_le (a : Accs) : (arbitrate a).out.toNat ≤ 179 :=
  (resolve_ordered _ _ _).2.trans (arbitrate_hi_le a)

/-- Settles O39: the curves are floors of lines, and SAMPLE applies A2C to an angle of 0 to 179. -/
theorem pulseWidthIsAStaircase : Obligations.PulseWidthIsAStaircase := by
  refine ⟨fun rate a b h _ => ⟨a2us_mono h, a2c_mono rate h⟩, fun a _ => a2us_under_line a,
    fun rate a _ => a2c_within_one_tick rate a, fun s raw => ?_, fun rate h => ?_,
    fun rate => a2c_lt_periodTicks le_rfl⟩
  · exact ⟨_, exec_sample raw s, a2c_mono s.rate (Nat.zero_le _),
      a2c_mono s.rate (arbitrate_out_le _)⟩
  · simp only [a2c_eq_ofNat, h]
    decide

/-! ### The frame (R94) -/

/-- The frame is 20 ms in ticks, rounded down to a whole tick; 50 ticks per second are one per
frame. -/
theorem periodTicks_within_one_tick (rate : Config.TickRate) :
    periodTicks rate * 1000000 ≤ 20000 * rate.hz ∧
      20000 * rate.hz < (periodTicks rate + 1) * 1000000 ∧
      (rate.hz % 50 = 0 → periodTicks rate * 1000000 = 20000 * rate.hz) := by
  rw [periodTicks_eq]
  omega

/-- Settles O41: the floor of 20 ms in ticks, over the range of TICK_HZ that a build can have. -/
theorem frameLength : Obligations.FrameLength := by
  refine ⟨fun rate => ?_, fun rate h => ?_, fun hz hlow hhigh => ⟨⟨hz, hlow, hhigh⟩, rfl⟩,
    rate_bounds⟩
  · obtain ⟨hone, hmax⟩ := periodTicks_bounds rate
    exact ⟨periodTicks_eq rate, hone, hmax, periodTicks_within_one_tick rate⟩
  · rw [periodTicks_eq, h]

/-! ### Pulses in the frame (R97) -/

theorem pulseHigh_eq (cnt cmpActive : Ticks) :
    pulseHigh cnt cmpActive = decide (cnt.toNat < cmpActive.toNat) := rfl

theorem pulseHigh_zero (cnt : Ticks) : pulseHigh cnt 0 = false := by
  rw [pulseHigh_eq]
  exact decide_eq_false (Nat.not_lt_zero _)

/-- Settles O42: the widest pulse is shorter than the frame, and CMP_ACTIVE is some angle's. -/
theorem pulseFitsFrame : Obligations.PulseFitsFrame := by
  refine ⟨fun rate a h => ⟨a2c_lt_periodTicks h, fun hzero => ?_⟩, fun s hinv => ?_⟩
  · rw [hzero]
    exact ⟨hz_lt_of_a2c_eq_zero hzero, pulseHigh_zero⟩
  · exact hinv.cmpActive_bounds.2.trans_lt (a2c_max_lt_periodTicks s.rate)

/-! ### COMPARE and OUT_ANGLE (R93) -/

/-- Every edge keeps COMPARE equal to A2C of OUT_ANGLE: RESET and SAMPLE write both, and nothing else
writes either. -/
theorem Regs.edge_compare_eq {rate : Config.TickRate} {r : Regs}
    (h : r.compare = a2c rate r.outAngle) (iv : InVec) :
    (r.edge rate iv).compare = a2c rate (r.edge rate iv).outAngle := by
  cases hrst : iv.rst with
  | true =>
    rw [Regs.edge_of_rst hrst]
    rfl
  | false =>
    cases hready : iv.sampleReady with
    | true =>
      obtain ⟨-, -, hout, -, -, hcompare, -⟩ :=
        Regs.edge_pipeline_of_sample (rate := rate) (r := r) hrst hready
      rw [hcompare, hout, Regs.transition_compare, Regs.transition_outAngle]
    | false =>
      obtain ⟨-, -, hout, -, -, hcompare, -⟩ :=
        Regs.edge_pipeline_of_idle (rate := rate) (r := r) hrst hready
      rw [hcompare, hout]
      exact h

/-- Settles O43: SAMPLE establishes the equality and every edge of a run keeps it. -/
theorem compareFollowsOutput : Obligations.CompareFollowsOutput := by
  refine ⟨fun s raw => ⟨_, exec_sample raw s, rfl⟩, fun ivs s h => ⟨_, runOn_eq ivs s, ?_⟩⟩
  rw [runEnd_regs, runEnd_rate]
  exact List.foldlRecOn (motive := fun r : Regs => r.compare = a2c s.rate r.outAngle) ivs _ h
    fun _ hr iv _ => Regs.edge_compare_eq hr iv

end Sys2Proof.Machine
end

section
/-!
The frame timer (R95, R96, R98, R99): one tick, then CNT and CMP_ACTIVE over an edge and over a run
without RESET.
-/

namespace Sys2Proof.Machine

/-! ### One tick (R95) -/

section
variable {rate : Config.TickRate} {r : Regs}

theorem Regs.advanceTimer_of_frameEnd (h : r.cnt.toNat = periodTicks rate - 1) :
    r.advanceTimer rate = { r with cnt := 0, cmpActive := r.compare } := by
  rw [Regs.advanceTimer, if_pos ((atFrameEnd_iff _ _).2 h)]

theorem Regs.advanceTimer_of_not_frameEnd (h : r.cnt.toNat ≠ periodTicks rate - 1) :
    r.advanceTimer rate = { r with cnt := r.cnt + 1 } := by
  rw [Regs.advanceTimer, if_neg (fun hend => h ((atFrameEnd_iff _ _).1 hend))]

end

/-- Before the last tick of a frame CNT rises without wrapping, since a frame has at most 65536
ticks. -/
theorem cnt_add_one_toNat {rate : Config.TickRate} {cnt : Ticks}
    (h : cnt.toNat < periodTicks rate - 1) : (cnt + 1).toNat = cnt.toNat + 1 := by
  have hperiod := (periodTicks_bounds rate).2
  have hone : (1 : Ticks).toNat = 1 := rfl
  rw [BitVec.toNat_add, hone]
  omega

/-- In the frame, a tick counts modulo the length of the frame. -/
theorem Regs.advanceTimer_cnt_toNat {rate : Config.TickRate} {r : Regs}
    (h : r.cnt.toNat < periodTicks rate) :
    (r.advanceTimer rate).cnt.toNat = (r.cnt.toNat + 1) % periodTicks rate := by
  by_cases hend : r.cnt.toNat = periodTicks rate - 1
  · rw [Regs.advanceTimer_of_frameEnd hend, show r.cnt.toNat + 1 = periodTicks rate by omega,
      Nat.mod_self]
    rfl
  · rw [Regs.advanceTimer_of_not_frameEnd hend, Nat.mod_eq_of_lt (by omega)]
    exact cnt_add_one_toNat (rate := rate) (by omega)

/-- Settles O44: TICK is the timer's advance on the registers, in its two cases. -/
theorem tickAdvancesTimer : Obligations.TickAdvancesTimer := by
  refine ⟨fun s hend => ?_, fun s hend => ?_, fun s hinv hend => ?_, fun s hinv hone => ?_⟩
  · rw [exec_tick, Regs.advanceTimer_of_frameEnd hend]
    rfl
  · rw [exec_tick, Regs.advanceTimer_of_not_frameEnd hend]
    rfl
  · exact cnt_add_one_toNat (lt_of_le_of_ne hinv.cnt_le hend)
  · have hend : s.regs.cnt.toNat = periodTicks s.rate - 1 := by
      have hcnt := hinv.cnt_le
      omega
    refine ⟨_, exec_tick s, ?_⟩
    rw [Regs.advanceTimer_of_frameEnd hend]
    exact ⟨rfl, rfl⟩

/-! ### One edge without RESET (R95, R98) -/

section
variable {rate : Config.TickRate} {iv : InVec} {r : Regs}

/-- The timer of an edge that ticks is TICK's. -/
theorem Regs.edge_timer_of_selectsTick (htick : selectsTick iv = true) :
    (r.edge rate iv).cnt = (r.advanceTimer rate).cnt ∧
      (r.edge rate iv).cmpActive = (r.advanceTimer rate).cmpActive := by
  simp only [selectsTick_eq, Bool.and_eq_true, Bool.not_eq_true'] at htick
  exact Regs.edge_timer_of_tick htick.1 htick.2

theorem Regs.edge_timer_of_not_selectsTick (hrst : selectsReset iv = false)
    (htick : selectsTick iv = false) :
    (r.edge rate iv).cnt = r.cnt ∧ (r.edge rate iv).cmpActive = r.cmpActive := by
  rw [selectsReset_eq] at hrst
  rw [selectsTick_eq, hrst] at htick
  exact Regs.edge_timer_of_not_tick hrst htick

/-- The tick that ends a frame starts the next one, with the COMPARE of before the edge. -/
theorem Regs.edge_timer_of_frameEnd (htick : selectsTick iv = true)
    (hend : r.cnt.toNat = periodTicks rate - 1) :
    (r.edge rate iv).cnt = 0 ∧ (r.edge rate iv).cmpActive = r.compare := by
  obtain ⟨hcnt, hcmp⟩ := Regs.edge_timer_of_selectsTick (rate := rate) (r := r) htick
  rw [Regs.advanceTimer_of_frameEnd hend] at hcnt hcmp
  exact ⟨hcnt, hcmp⟩

/-- At every other edge CMP_ACTIVE keeps its value. -/
theorem Regs.edge_cmpActive_of_not_frameEnd (hrst : selectsReset iv = false)
    (hend : ¬ (selectsTick iv = true ∧ r.cnt.toNat = periodTicks rate - 1)) :
    (r.edge rate iv).cmpActive = r.cmpActive := by
  cases htick : selectsTick iv with
  | true =>
    rw [(Regs.edge_timer_of_selectsTick htick).2,
      Regs.advanceTimer_of_not_frameEnd fun h => hend ⟨htick, h⟩]
  | false => exact (Regs.edge_timer_of_not_selectsTick hrst htick).2

theorem Regs.edge_cnt_toNat (hrst : selectsReset iv = false) (h : r.cnt.toNat < periodTicks rate) :
    (r.edge rate iv).cnt.toNat =
      (r.cnt.toNat + if selectsTick iv then 1 else 0) % periodTicks rate := by
  cases htick : selectsTick iv with
  | true =>
    rw [(Regs.edge_timer_of_selectsTick htick).1]
    exact Regs.advanceTimer_cnt_toNat h
  | false =>
    rw [(Regs.edge_timer_of_not_selectsTick hrst htick).1]
    exact (Nat.mod_eq_of_lt h).symm

end

/-! ### A run without RESET (R96, R98, R99) -/

section
variable {ivs : List InVec} {s : State} (hrun : ∀ iv ∈ ivs, selectsReset iv = false)
include hrun

/-- From a count within the frame, CNT counts the ticks of the run modulo the frame. -/
theorem runEnd_cnt_toNat (h : s.regs.cnt.toNat < periodTicks s.rate) :
    (runEnd ivs s).regs.cnt.toNat =
      (s.regs.cnt.toNat + ivs.countP (fun iv => selectsTick iv)) % periodTicks s.rate := by
  induction ivs generalizing s with
  | nil => exact (Nat.mod_eq_of_lt h).symm
  | cons iv ivs ih =>
    obtain ⟨hrst, hrest⟩ := List.forall_mem_cons.1 hrun
    have hcnt := Regs.edge_cnt_toNat hrst h
    have hlt : (s.regs.edge s.rate iv).cnt.toNat < periodTicks s.rate := by
      rw [hcnt]
      exact Nat.mod_lt _ (periodTicks_bounds s.rate).1
    rw [runEnd_cons, ih hrest hlt, edge_regs, edge_rate, hcnt, Nat.mod_add_mod, List.countP_cons,
      Nat.add_assoc, Nat.add_comm (ivs.countP _)]

/-- Over the rest of a frame the ticks are counted, and CMP_ACTIVE stands still. -/
theorem runEnd_timer_of_within_frame
    (h : s.regs.cnt.toNat + ivs.countP (fun iv => selectsTick iv) < periodTicks s.rate) :
    (runEnd ivs s).regs.cnt.toNat =
        s.regs.cnt.toNat + ivs.countP (fun iv => selectsTick iv) ∧
      (runEnd ivs s).regs.cmpActive = s.regs.cmpActive := by
  refine ⟨(runEnd_cnt_toNat hrun (by omega)).trans (Nat.mod_eq_of_lt h), ?_⟩
  induction ivs generalizing s with
  | nil => rfl
  | cons iv ivs ih =>
    obtain ⟨hrst, hrest⟩ := List.forall_mem_cons.1 hrun
    rw [List.countP_cons] at h
    have hcnt := Regs.edge_cnt_toNat (rate := s.rate) (r := s.regs) hrst (by omega)
    rw [Nat.mod_eq_of_lt (by omega)] at hcnt
    have hcmp : (s.regs.edge s.rate iv).cmpActive = s.regs.cmpActive := by
      refine Regs.edge_cmpActive_of_not_frameEnd hrst fun ⟨htick, hend⟩ => ?_
      rw [if_pos htick] at h
      omega
    have hlt : (s.regs.edge s.rate iv).cnt.toNat + ivs.countP (fun iv => selectsTick iv) <
        periodTicks s.rate := by
      rw [hcnt]
      omega
    rw [runEnd_cons]
    exact (ih hrest hlt).trans hcmp

end

theorem Regs.outputs_pwmOut (r : Regs) (sel : BitVec 3) :
    (r.outputs sel).pwmOut = decide (r.cnt.toNat < r.cmpActive.toNat) := rfl

/-- From the start of a frame, the pulse lasts while fewer ticks than CMP_ACTIVE have come (R96). -/
theorem runEnd_pulse_of_frameStart {ivs : List InVec} {s : State}
    (hrun : ∀ iv ∈ ivs, selectsReset iv = false) (hstart : s.regs.cnt = 0)
    (h : ivs.countP (fun iv => selectsTick iv) < periodTicks s.rate) (sel : BitVec 3) :
    (runEnd ivs s).regs.cmpActive = s.regs.cmpActive ∧
      ((runEnd ivs s).regs.outputs sel).pwmOut =
        decide (ivs.countP (fun iv => selectsTick iv) < s.regs.cmpActive.toNat) := by
  have hzero : s.regs.cnt.toNat = 0 := congrArg BitVec.toNat hstart
  obtain ⟨hcnt, hcmp⟩ := runEnd_timer_of_within_frame (s := s) hrun (by omega)
  rw [Regs.outputs_pwmOut, hcnt, hcmp, hzero, Nat.zero_add]
  exact ⟨rfl, rfl⟩

/-- Settles O45: CNT is the number of ticks in the frame, and CMP_ACTIVE stands still in it. -/
theorem pulseShape : Obligations.PulseShape :=
  ⟨fun ivs s sel hrun hstart h =>
      ⟨_, runOn_eq ivs s, runEnd_pulse_of_frameStart hrun hstart h sel⟩,
    fun rate a _ => a2c_within_one_tick rate a⟩

/-- The last edge of a run acts on the registers that the edges before it leave. -/
theorem runEnd_concat_regs (ivs : List InVec) (last : InVec) (s : State) :
    (runEnd (ivs ++ [last]) s).regs = (runEnd ivs s).regs.edge s.rate last := by
  rw [runEnd_regs, runEnd_regs, List.foldl_concat]

/-- Settles O46: the rest of a frame leaves CMP_ACTIVE alone and brings CNT to its last value, where
a tick loads COMPARE. -/
theorem compareWaitsForFrame : Obligations.CompareWaitsForFrame := by
  refine ⟨fun s iv rest h hrst => ⟨_, step_of_inputs h, Regs.edge_timer_of_frameEnd,
    Regs.edge_cmpActive_of_not_frameEnd hrst⟩, fun ivs last s hrun hlast hrest => ?_⟩
  have hperiod := (periodTicks_bounds s.rate).1
  obtain ⟨hcnt, hcmp⟩ := runEnd_timer_of_within_frame (s := s) hrun (by omega)
  refine ⟨_, _, runOn_eq ivs s, hcmp, runOn_eq (ivs ++ [last]) s, ?_⟩
  rw [runEnd_concat_regs]
  exact Regs.edge_timer_of_frameEnd hlast (hcnt.trans hrest)

/-! ### From a RESET edge (R99) -/

theorem edge_regs_of_reset {rst : InVec} (h : selectsReset rst = true) (s : State) :
    (edge rst s).regs = Regs.atReset s.rate :=
  Regs.edge_of_rst h

/-- Settles O47: RESET starts a frame with CMP_ACTIVE = A2C(0), and the run after it is one from the
start of a frame. -/
theorem firstFrameHasAPulse : Obligations.FirstFrameHasAPulse := by
  refine ⟨fun rst s sel hrst => ⟨_, runOn_eq [rst] s, ?_⟩,
    fun rst ivs s hrst hrun => ⟨_, runOn_eq (rst :: ivs) s, ?_⟩,
    fun rst ivs s sel hrst hrun h => ⟨_, runOn_eq (rst :: ivs) s, ?_⟩⟩
  · rw [runEnd_cons, runEnd_nil, State.feed_regs, edge_regs_of_reset hrst]
    exact ⟨rfl, rfl, fun hpos => decide_eq_true hpos⟩
  · rw [runEnd_cons, runEnd_cnt_toNat hrun, edge_regs_of_reset hrst]
    · exact congrArg (· % periodTicks s.rate) (Nat.zero_add _)
    · rw [edge_regs_of_reset hrst]
      exact (periodTicks_bounds s.rate).1
  · have hregs := edge_regs_of_reset hrst { s with cycle := s.cycle + 1 }
    have hpulse := runEnd_pulse_of_frameStart hrun (congrArg Regs.cnt hregs) h sel
    rw [hregs] at hpulse
    exact hpulse

end Sys2Proof.Machine
end

section
/-! Waiting (R156): runs without SAMPLE and RESET. -/

namespace Sys2Proof.Machine

/-- A run without SAMPLE and RESET leaves the pipeline as it was, but for START, which its first edge
clears (R108). -/
theorem runEnd_samePipeline_of_quiet {ivs : List InVec}
    (hquiet : ∀ iv ∈ ivs, iv.rst = false ∧ iv.sampleReady = false) (s : State) :
    (runEnd ivs s).regs.samePipeline { s.regs with start := ivs.isEmpty && s.regs.start } := by
  induction ivs generalizing s with
  | nil => simp [Regs.samePipeline]
  | cons iv ivs ih =>
    obtain ⟨⟨hrst, hready⟩, hrest⟩ := List.forall_mem_cons.1 hquiet
    obtain ⟨hacc, hch, hout, hlo, hhi, hcompare, -⟩ :=
      Regs.edge_pipeline_of_idle (rate := s.rate) (r := s.regs) hrst hready
    have hrun := ih hrest (edge iv { s with cycle := s.cycle + 1 })
    simpa [Regs.samePipeline, hacc, hch, hout, hlo, hhi, hcompare, hrst, hready] using hrun

/-- No request is made without SAMPLE and RESET (R111). -/
theorem runEnd_requests_of_quiet {ivs : List InVec}
    (hquiet : ∀ iv ∈ ivs, iv.rst = false ∧ iv.sampleReady = false) (s : State) :
    (runEnd ivs s).requests = s.requests := by
  induction ivs generalizing s with
  | nil => rfl
  | cons iv ivs ih =>
    obtain ⟨⟨hrst, hready⟩, hrest⟩ := List.forall_mem_cons.1 hquiet
    rw [runEnd_cons, ih hrest, edge_requests, requestsAfter_of_idle hrst hready]

/-- Settles O53: the pipeline stands still but for START, no request is made, and the timer counts the
ticks. -/
theorem waitingChangesNothing : Obligations.WaitingChangesNothing := by
  intro ivs s hquiet
  obtain ⟨hacc, hch, hout, hlo, hhi, hcompare, hstart⟩ := runEnd_samePipeline_of_quiet hquiet s
  refine ⟨_, runOn_eq ivs s, hacc, hch, hout, hlo, hhi, hcompare, runEnd_requests_of_quiet hquiet s,
    fun hnil => ?_, fun hne => ?_, runEnd_cnt_toNat fun iv hmem => (hquiet iv hmem).1⟩
  · rw [hstart, hnil]
    rfl
  · rw [hstart, List.isEmpty_eq_false_iff.2 hne, Bool.false_and]

end Sys2Proof.Machine
end

section
/-!
The Acquisition Controller (R105, R108, R110 to R112): the whole transition, the requests that an edge
and a run make, and the invariant with the latest request in it.
-/

namespace Sys2Proof.Machine

/-! ### SAMPLE and IDLE, field by field (R105, R108) -/

/-- The bank after SAMPLE, written out: the accumulator of the cursor's channel is updated and the
other two are kept (R76). -/
theorem nextAccs_eq (raw : Raw) (r : Regs) : nextAccs raw r =
    { acc0 := if r.ch = .set then fupd (r.acc.get r.ch) raw else r.acc.acc0
      acc1 := if r.ch = .min then fupd (r.acc.get r.ch) raw else r.acc.acc1
      acc2 := if r.ch = .max then fupd (r.acc.get r.ch) raw else r.acc.acc2 } := by
  rw [nextAccs, cur]
  cases r.ch <;> rfl

/-- Settles O50: the transition on the bank that `nextAccs_eq` writes out. -/
theorem sampleTransition : Obligations.SampleTransition := by
  intro raw s
  rw [exec_sample, Regs.transition, nextAccs_eq]
  rfl

/-- Settles O51: IDLE writes 0 to START alone, which is no change where START is 0. -/
theorem idleClearsStart : Obligations.IdleClearsStart := by
  refine fun s => ⟨exec_idle s, fun hstart => ?_⟩
  rw [exec_idle, ← hstart]
  rfl

/-! ### The channel and the request of one edge (R110, R111) -/

/-- The edges that make no request, in the terms of the decoder's fields. -/
theorem not_selects_iff (iv : InVec) : selectsReset iv = false ∧ selectsSample iv = false ↔
    iv.rst = false ∧ iv.sampleReady = false := by
  rw [selectsReset_eq, selectsSample_eq]
  cases iv.rst <;> simp

section
variable {iv : InVec} {s : State}

/-- A RESET or SAMPLE edge makes one request, for the channel that it leaves in CH. -/
theorem edge_requests_of_selects (h : selectsReset iv = true ∨ selectsSample iv = true) :
    (edge iv s).requests = (edge iv s).regs.ch :: s.requests := by
  rw [edge_requests, edge_regs]
  rcases h with hreset | hsample
  · rw [requestsAfter_of_rst hreset, Regs.edge_of_rst hreset, Regs.atReset_ch]
  · obtain ⟨hrst, hready⟩ : iv.rst = false ∧ iv.sampleReady = true := by
      simpa [selectsSample_eq] using hsample
    rw [requestsAfter_of_sample hrst hready, Regs.edge_ch hrst, if_pos hsample]

/-- Every other edge makes no request and leaves CH. -/
theorem edge_requests_of_not_selects (h : selectsReset iv = false ∧ selectsSample iv = false) :
    (edge iv s).requests = s.requests ∧ (edge iv s).regs.ch = s.regs.ch := by
  obtain ⟨hrst, hready⟩ := (not_selects_iff iv).1 h
  refine ⟨requestsAfter_of_idle hrst hready s, ?_⟩
  rw [edge_regs, Regs.edge_ch h.1, h.2, if_neg Bool.false_ne_true]

theorem edge_start_of_selects (h : selectsReset iv = true ∨ selectsSample iv = true) :
    (edge iv s).regs.start = true := by
  rw [edge_regs, Regs.edge_start, Bool.or_eq_true]
  exact h.imp id fun hsample => (Bool.and_eq_true_iff.1 hsample).2

end

/-- The cursor stays the channel of the latest request. -/
theorem edge_last_request {s : State} (h : s.requests.head? = some s.regs.ch) (iv : InVec) :
    (edge iv s).requests.head? = some (edge iv s).regs.ch := by
  by_cases hsel : selectsReset iv = true ∨ selectsSample iv = true
  · rw [edge_requests_of_selects hsel, List.head?_cons]
  · simp only [not_or, Bool.not_eq_true] at hsel
    obtain ⟨hreq, hch⟩ := edge_requests_of_not_selects (s := s) hsel
    rw [hreq, hch, h]

theorem requestsAfter_length (iv : InVec) (s : State) : (requestsAfter iv s).length =
    s.requests.length + (if selectsSample iv then 1 else 0) + if selectsReset iv then 1 else 0 := by
  rw [selectsReset_eq, selectsSample_eq]
  cases hrst : iv.rst with
  | true => simp [requestsAfter_of_rst hrst]
  | false =>
    cases hready : iv.sampleReady with
    | true => simp [requestsAfter_of_sample hrst hready]
    | false => simp [requestsAfter_of_idle hrst hready]

/-! ### Runs (R110, R111, R112) -/

/-- Settles O13: a requesting edge writes CH and the request together, and a run without such edges
leaves the pipeline and the requests alone. -/
theorem channelHeldUntilNextRequest : Obligations.ChannelHeldUntilNextRequest := by
  refine ⟨fun s iv rest h hsel => ?_, fun ivs s sel hrun => ?_⟩
  · exact ⟨_, step_of_inputs h, edge_start_of_selects hsel, edge_requests_of_selects hsel⟩
  · have hquiet : ∀ iv ∈ ivs, iv.rst = false ∧ iv.sampleReady = false :=
      fun iv hmem => (not_selects_iff iv).1 (hrun iv hmem)
    obtain ⟨-, hch, -⟩ := runEnd_samePipeline_of_quiet hquiet s
    exact ⟨_, runOn_eq ivs s, congrArg Channel.code hch, runEnd_requests_of_quiet hquiet s⟩

/-- Settles O14: START is what the last edge made of it, and the converter samples it with `rst`. -/
theorem strobeLastsOneCycle : Obligations.StrobeLastsOneCycle := by
  intro ivs last next s sel
  have hstart : (runEnd (ivs ++ [last]) s).regs.start = (last.getLsbD 15 || last.getLsbD 14) := by
    rw [runEnd_concat_regs, Regs.edge_start]
    rfl
  exact ⟨_, runOn_eq _ s, hstart, congrArg (· && !next.rst) hstart⟩

theorem runEnd_requests_length (ivs : List InVec) (s : State) :
    (runEnd ivs s).requests.length = s.requests.length
      + ivs.countP (fun iv => selectsSample iv) + ivs.countP (fun iv => selectsReset iv) := by
  induction ivs generalizing s with
  | nil => rfl
  | cons iv ivs ih =>
    rw [runEnd_cons, ih, edge_requests, requestsAfter_length, List.countP_cons, List.countP_cons]
    dsimp only
    omega

/-- Settles O15: each edge adds the requests of its own operations, and they add up over a run. -/
theorem oneRequestPerEvent : Obligations.OneRequestPerEvent :=
  ⟨fun ivs s => ⟨_, runOn_eq ivs s, runEnd_requests_length ivs s⟩,
    fun s => ⟨_, exec_reset s, rfl⟩, fun s raw => ⟨_, exec_sample raw s, rfl⟩⟩

/-! ### The machine's invariant (R22, R111) -/

/-- At the default TICK_HZ the reset values of R21 are those that RESET writes. -/
theorem State.reset_regs : State.reset.regs = Regs.atReset State.reset.rate := by
  decide

/-- Settles O57: RESET's registers meet R22, and the one request is for channel SET. -/
theorem invariantAtReset : Obligations.InvariantAtReset where
  regs_inv := by
    rw [State.reset_regs]
    exact Regs.inv_atReset _
  last_request := rfl

theorem State.Inv.consume {s : State} (h : s.Inv) : s.consume.Inv :=
  ⟨h.regs_inv, h.last_request⟩

theorem State.Inv.edge {s : State} (h : s.Inv) (iv : InVec) : (edge iv s).Inv where
  regs_inv := h.regs_inv.edge iv
  last_request := edge_last_request h.last_request iv

/-- Settles O58: a step is an edge on some vector, and every edge keeps the items of R22 and the
latest request for the channel in CH. -/
theorem invariantKeptByStep : Obligations.InvariantKeptByStep :=
  fun s h => ⟨_, step_eq s, h.consume.edge s.nextVector⟩

end Sys2Proof.Machine
end

section
/-!
What each READ gives (R120 to R126): the filtered values and how long they stay 0, the angles and what
a SAMPLE makes of them, and the reserved selectors.
-/

namespace Sys2Proof.Machine

/-! ### The reserved selectors (R126) -/

/-- Settles O18: a READ shows the value of its selector, which is 0 for these two. -/
theorem reservedSelectorsReadZero : Obligations.ReservedSelectorsReadZero :=
  fun s => ⟨exec_read .rsv6 s, exec_read .rsv7 s⟩

/-! ### The filtered values (R120 to R122) -/

theorem fupd_zero_zero : fupd 0 0 = 0 := fupd_zero 0

section
variable {r : Regs} {c : Channel}

/-- SAMPLE takes the accumulator of its channel out of 0 only with a non-zero sample, and no other
accumulator at all. -/
theorem nextAccs_get_eq_zero {raw : Raw} (hzero : r.acc.get c = 0) (hraw : r.ch = c → raw = 0) :
    (nextAccs raw r).get c = 0 := by
  rw [nextAccs_get]
  split
  · next hc => rw [← hc, hzero, hraw hc.symm, fupd_zero_zero]
  · exact hzero

/-- An accumulator at 0 stays there at every edge but a SAMPLE of its own channel with a non-zero
sample (R73). -/
theorem Regs.edge_acc_get_eq_zero (rate : Config.TickRate) {iv : InVec} (hzero : r.acc.get c = 0)
    (hraw : selectsSample iv = true → r.ch = c → iv.adcData = 0) :
    (r.edge rate iv).acc.get c = 0 := by
  cases hrst : iv.rst with
  | true => rw [Regs.edge_of_rst hrst, Regs.atReset_acc, Accs.get_zero]
  | false =>
    cases hready : iv.sampleReady with
    | true =>
      have hsample : selectsSample iv = true := by rw [selectsSample_eq, hrst, hready]; rfl
      obtain ⟨hacc, -⟩ := Regs.edge_pipeline_of_sample (rate := rate) (r := r) hrst hready
      rw [hacc, Regs.transition_acc, nextAccs_get_eq_zero hzero (hraw hsample)]
    | false =>
      obtain ⟨hacc, -⟩ := Regs.edge_pipeline_of_idle (rate := rate) (r := r) hrst hready
      rw [hacc, hzero]

end

/-- Settles O16: the READs by `exec_read`; an accumulator's value has ten bits, and leaves 0 only by a
bootstrap, which makes it the sample. -/
theorem filteredValuesAreRead : Obligations.FilteredValuesAreRead := by
  refine ⟨fun s => ?reads, fun acc => ?range, fun s => ?reset, fun s iv rest c h hzero hraw => ?edge,
    by decide, fread_fupd_zero, by decide⟩
  case reads => exact ⟨exec_read .fset s, exec_read .fmin s, exec_read .fmax s⟩
  case range => exact Nat.le_of_lt_succ (zext16_toNat_lt (by decide) (fread acc))
  case reset => exact ⟨_, exec_reset s, Accs.get_zero⟩
  case edge => exact ⟨_, step_of_inputs h, Regs.edge_acc_get_eq_zero s.rate hzero hraw⟩

/-! ### The angles (R123 to R125) -/

section
variable {a : Accs}

theorem arbitrate_bounds_of_ordered
    (h : (mapAngle (fread a.acc1)).toNat ≤ (mapAngle (fread a.acc2)).toNat) :
    (arbitrate a).lo = mapAngle (fread a.acc1) ∧ (arbitrate a).hi = mapAngle (fread a.acc2) :=
  resolve_bounds_of_ordered h _

/-- Crossed bounds collapse to their midpoint, which is below the lower bound as MAP gives it. -/
theorem arbitrate_of_crossed
    (h : (mapAngle (fread a.acc2)).toNat < (mapAngle (fread a.acc1)).toNat) :
    (arbitrate a).lo.toNat =
        (mapAngle (fread a.acc2)).toNat / 2 + (mapAngle (fread a.acc1)).toNat / 2 ∧
      (arbitrate a).hi = (arbitrate a).lo ∧ (arbitrate a).out = (arbitrate a).lo ∧
      (arbitrate a).lo ≠ mapAngle (fread a.acc1) := by
  have hcollapse := resolve_of_crossed h (mapAngle (fread a.acc0))
  rw [show arbitrate a = _ from hcollapse]
  obtain ⟨-, hbelow⟩ := midpoint_of_crossed h
  exact ⟨midpoint_toNat _ _, rfl, rfl, fun heq => hbelow.ne (congrArg BitVec.toNat heq)⟩

end

/-- Settles O17: the READs by `exec_read`; a SAMPLE writes the three results of arbitration, and the
first one after a RESET finds the upper bound at 0. -/
theorem anglesAreRead : Obligations.AnglesAreRead := by
  refine ⟨fun s sel => ?reads, fun s raw => ?bounds, fun s raw => ?firstSample⟩
  case reads =>
    refine ⟨exec_read .out s, exec_read .amin s, exec_read .amax s, rfl, fun hinv => ?_⟩
    exact ⟨hinv.out_le, hinv.min_le_out.trans hinv.out_le, hinv.max_le⟩
  case bounds =>
    exact ⟨_, exec_sample raw s, arbitrate_bounds_of_ordered, arbitrate_of_crossed⟩
  case firstSample =>
    obtain ⟨t, u, -, -, hreset, hsample, -, -, ⟨-, hout, -⟩, ⟨-, hout', -⟩, -⟩ :=
      firstThreeTransitions s raw 0 0
    exact ⟨t, u, hreset, hout, hsample, hout'⟩

end Sys2Proof.Machine
end

section
/-!
No fault and no refusal (R130).
-/

namespace Sys2Proof.Machine

/-- Settles O8: an operation answers by `exec_answers_next`, an edge by `step_eq`, and the type of
faults has no constructor. -/
theorem everyStepAnswersNext : Obligations.EveryStepAnswersNext := by
  refine ⟨fun i s => ?operation, fun s => ?edge, fun cause => ?fault⟩
  case operation => exact exec_answers_next i s
  case edge => exact ⟨_, step_eq s⟩
  case fault => exact nomatch cause

end Sys2Proof.Machine
end

section
/-!
Pipeline and frame timer (R20, R94, R131): an edge acts on what the pipeline holds through the
accumulators, the cursor, `rst`, `sample_ready` and the sample alone.
-/

namespace Sys2Proof.Machine

theorem Regs.samePipeline.symm {r r' : Regs} (h : r.samePipeline r') : r'.samePipeline r := by
  obtain ⟨hacc, hch, hout, hlo, hhi, hcompare, hstart⟩ := h
  exact ⟨hacc.symm, hch.symm, hout.symm, hlo.symm, hhi.symm, hcompare.symm, hstart.symm⟩

theorem Regs.samePipeline.trans {r r' r'' : Regs} (h : r.samePipeline r')
    (h' : r'.samePipeline r'') : r.samePipeline r'' := by
  obtain ⟨hacc, hch, hout, hlo, hhi, hcompare, hstart⟩ := h
  obtain ⟨hacc', hch', hout', hlo', hhi', hcompare', hstart'⟩ := h'
  exact ⟨hacc.trans hacc', hch.trans hch', hout.trans hout', hlo.trans hlo', hhi.trans hhi',
    hcompare.trans hcompare', hstart.trans hstart'⟩

theorem Regs.samePipeline.withStart {r r' : Regs} (h : r.samePipeline r') (b : Bool) :
    Regs.samePipeline { r with start := b } { r' with start := b } := by
  obtain ⟨hacc, hch, hout, hlo, hhi, hcompare, -⟩ := h
  exact ⟨hacc, hch, hout, hlo, hhi, hcompare, rfl⟩

/-! ### The transition (R131) -/

/-- All that the transition makes of the pipeline comes from the accumulators and the cursor. -/
theorem Regs.transition_samePipeline_of_acc_ch (rate : Config.TickRate) (raw : Raw) {r r' : Regs}
    (hacc : r.acc = r'.acc) (hch : r.ch = r'.ch) :
    (r.transition rate raw).samePipeline (r'.transition rate raw) := by
  have hnext : nextAccs raw r = nextAccs raw r' := by rw [nextAccs, nextAccs, cur, cur, hacc, hch]
  simp [Regs.samePipeline, hnext, hch]

/-- Settles O37: the angles of before the edge are no argument of the transition. -/
theorem collapseLeavesNoTrace : Obligations.CollapseLeavesNoTrace := by
  intro s s' raw hrate hacc hch
  refine ⟨_, _, exec_sample raw s, exec_sample raw s', ?_⟩
  simp only [State.emit_regs, State.setRegs_regs, ← hrate]
  exact Regs.transition_samePipeline_of_acc_ch s.rate raw hacc hch

/-! ### Runs that differ in ticks and reads (R20, R94) -/

/-- The mask 0xFFF0 keeps the fields of the control group and clears those of the other two. -/
theorem controlFields_eq_of_mask {iv iv' : InVec} (h : iv &&& 0xFFF0 = iv' &&& 0xFFF0) :
    iv.rst = iv'.rst ∧ iv.sampleReady = iv'.sampleReady ∧ iv.adcData = iv'.adcData := by
  have hmask (c : Raw) : c &&& 1023#10 = c := BitVec.and_allOnes
  simpa [InVec.eq_iff_fields, hmask] using h

/-- Edges with the same control fields keep pipelines the same, whatever the timers, ticks and reads
are. -/
theorem Regs.samePipeline.edge {rate : Config.TickRate} {r r' : Regs} (hr : r.samePipeline r')
    {iv iv' : InVec} (h : iv &&& 0xFFF0 = iv' &&& 0xFFF0) :
    (r.edge rate iv).samePipeline (r'.edge rate iv') := by
  obtain ⟨hrst', hready', hdata⟩ := controlFields_eq_of_mask h
  cases hrst : iv.rst with
  | true =>
    rw [Regs.edge_of_rst hrst, Regs.edge_of_rst (hrst' ▸ hrst)]
    simp [Regs.samePipeline]
  | false =>
    cases hready : iv.sampleReady with
    | true =>
      have hleft := Regs.edge_pipeline_of_sample (rate := rate) (r := r) hrst hready
      have hright := Regs.edge_pipeline_of_sample (rate := rate) (r := r') (hrst' ▸ hrst)
        (hready' ▸ hready)
      rw [← hdata] at hright
      exact hleft.trans ((hr.transition _).trans hright.symm)
    | false =>
      have hleft := Regs.edge_pipeline_of_idle (rate := rate) (r := r) hrst hready
      have hright := Regs.edge_pipeline_of_idle (rate := rate) (r := r') (hrst' ▸ hrst)
        (hready' ▸ hready)
      exact hleft.trans ((hr.withStart false).trans hright.symm)

theorem Regs.samePipeline.runEnd {ivs ivs' : List InVec}
    (h : List.Forall₂ (fun iv iv' => iv &&& 0xFFF0 = iv' &&& 0xFFF0) ivs ivs') {s s' : State}
    (hrate : s.rate = s'.rate) (hs : s.regs.samePipeline s'.regs) :
    (runEnd ivs s).regs.samePipeline (runEnd ivs' s').regs := by
  induction h generalizing s s' with
  | nil => exact hs
  | cons hiv _ ih =>
    refine ih hrate ?_
    rw [edge_regs, edge_regs, ← hrate]
    exact hs.edge hiv

/-- A run without RESET and TICK leaves the frame timer alone, whatever it samples. -/
theorem runEnd_timer_of_not_tick {ivs : List InVec}
    (hrun : ∀ iv ∈ ivs, iv.rst = false ∧ iv.tick = false) (s : State) :
    (runEnd ivs s).regs.cnt = s.regs.cnt ∧ (runEnd ivs s).regs.cmpActive = s.regs.cmpActive := by
  rw [runEnd_regs]
  refine List.foldlRecOn (motive := fun r : Regs => r.cnt = s.regs.cnt ∧
    r.cmpActive = s.regs.cmpActive) ivs _ ⟨rfl, rfl⟩ ?_
  rintro r ⟨hcnt, hcmp⟩ iv hmem
  obtain ⟨hrst, htick⟩ := hrun iv hmem
  obtain ⟨hcnt', hcmp'⟩ := Regs.edge_timer_of_not_tick (rate := s.rate) (r := r) hrst htick
  exact ⟨hcnt'.trans hcnt, hcmp'.trans hcmp⟩

/-- Settles O48: every edge acts on the pipeline through the control fields alone, and on the timer
through RESET and TICK alone. -/
theorem pipelineIgnoresTimer : Obligations.PipelineIgnoresTimer := by
  refine ⟨fun ivs ivs' s s' h hrate hs => ?pipeline, fun ivs s hrun => ?timer⟩
  case pipeline =>
    exact ⟨_, _, runOn_eq ivs s, runOn_eq ivs' s', Regs.samePipeline.runEnd h hrate hs⟩
  case timer => exact ⟨_, runOn_eq ivs s, runEnd_timer_of_not_tick hrun s⟩

end Sys2Proof.Machine
end

section
/-! RESET (R21, R145, R146): it writes every register, so nothing of before it is left. -/

namespace Sys2Proof.Machine

/-- The pulse for angle 0 lasts 1000 microseconds. -/
theorem a2c_zero_toNat (rate : Config.TickRate) :
    (a2c rate 0).toNat = 1000 * rate.hz / 1000000 :=
  a2c_toNat rate 0

/-- Settles O54: the registers after RESET are a function of the build alone, and the outputs show
them. -/
theorem resetWritesEveryRegister : Obligations.ResetWritesEveryRegister := by
  refine ⟨exec_reset, a2c_zero_toNat, fun s => ?_⟩
  refine ⟨_, _, exec_reset s, exec_reset _, rfl, rfl, rfl, rfl, ?pulse⟩
  case pulse =>
    rw [Regs.outputs_pwmOut, ← a2c_zero_toNat]
    rfl

/-- Settles O55: after the RESET edge both blocks hold the same registers, and the rest of the run is
a function of them, the build and the vectors. -/
theorem nothingSurvivesReset : Obligations.NothingSurvivesReset := by
  intro rst ivs s s' hrst hrate
  refine ⟨_, _, runOn_eq (rst :: ivs) s, runOn_eq (rst :: ivs) s', ?_⟩
  rw [runEnd_cons, runEnd_cons, runEnd_regs, runEnd_regs, edge_regs_of_reset hrst,
    edge_regs_of_reset hrst, edge_rate, edge_rate, hrate]

/-- Settles O56: the listed values are those of `Regs.atReset` at the default TICK_HZ, which RESET
writes in any state of that build. -/
theorem resetStateIsAsListed : Obligations.ResetStateIsAsListed := by
  refine ⟨State.reset_regs, rfl, rfl, rfl, rfl, rfl, rfl, rfl, rfl, rfl, rfl, fun s hrate => ?_⟩
  refine ⟨_, exec_reset s, ?_⟩
  rw [State.emit_regs, State.setRegs_regs, hrate, State.reset_regs]

end Sys2Proof.Machine
end

section
/-!
Words written out (R48, R49), and the one operation that stands for a word of the opcode table (log
entry 10).
-/

namespace Sys2Proof

/-- Settles O1: the six words evaluated. -/
theorem wordsDecodeAsSpelled : Obligations.WordsDecodeAsSpelled := by
  refine ⟨?_, ?_, ?_, ?_, ?_, ?_⟩ <;> decide

/-- No vector is refused (R56). -/
theorem decodeTableWord_toNat (iv : InVec) :
    decodeTableWord 16 iv.toNat = some (decode iv).principal := by
  rw [decodeTableWord, decodeWord, if_neg (lt_irrefl 16), if_neg (Nat.not_le.2 iv.isLt),
    BitVec.ofNat_toNat, BitVec.setWidth_eq]

/-- A number that is longer than the vector, or does not fit it, is refused (R48). -/
theorem decodeTableWord_eq_none {nbits w : Nat} (h : 16 < nbits ∨ 65536 ≤ w) :
    decodeTableWord nbits w = none := by
  rw [decodeTableWord, decodeWord]
  split_ifs with hlong hhigh
  · rfl
  · rfl
  · exact absurd h (not_or.2 ⟨hlong, hhigh⟩)

/-- RESET and SAMPLE stand for every selection they are in. -/
theorem Selection.principal_of_control_ne_idle {sel : Selection} (h : sel.control ≠ .idle) :
    sel.principal = sel.control := by
  unfold Selection.principal
  split
  · next hidle => exact absurd hidle h
  · rfl

theorem principal_decode_encode_sample (raw : Raw) :
    (decode (encode (.sample raw))).principal = .sample raw := by
  have hcontrol : (decode (encode (.sample raw))).control = .sample raw :=
    decodeControl_encode rfl
  rw [Selection.principal_of_control_ne_idle (by simp [hcontrol]), hcontrol]

/-- Settles O5: SAMPLE stands for its vector by its control group, and the other canonical vectors are
constants. -/
theorem canonicalVectorNamesItsOperation : Obligations.CanonicalVectorNamesItsOperation := by
  refine ⟨fun i hne => ?own, ?idle, fun _ _ => decodeTableWord_eq_none⟩
  case own =>
    rw [decodeTableWord_toNat]
    cases i with
    | sample raw => exact congrArg some (principal_decode_encode_sample raw)
    | readFset => exact absurd rfl hne
    | reset | idle | tick | readFmin | readFmax | readOut | readAmin | readAmax | readRsv6
    | readRsv7 => rfl
  case idle => exact decodeTableWord_toNat _

end Sys2Proof
end

section
/-! What a step runs (R62, R63, log entries 1 and 9). -/

namespace Sys2Proof.Machine

/-- Where no vector is listed, a step runs the operations of the free vector of its cycle. -/
theorem step_eq_runOps_of_nil {s : State} (h : s.inputs = []) :
    step s = runOps (decode (Config.freeInput s.cycle)).ops { s with cycle := s.cycle + 1 } := by
  obtain ⟨regs, rate, inputs, cycle, rdData, requests⟩ := s
  obtain rfl : inputs = [] := h
  rfl

/-- Settles O7: a listed vector by `step_eq_runOps`, a free one by `step_eq_runOps_of_nil`, and a run
of operations goes on from what its first one answers. -/
theorem stepRunsSelectedOperations : Obligations.StepRunsSelectedOperations := by
  refine ⟨fun s iv rest h => ?listed, fun s => ?free, fun s => ?empty, fun i is s t h => ?first⟩
  case listed => exact step_eq_runOps h
  case free => exact step_eq_runOps_of_nil
  case empty => rfl
  case first => exact runOps_cons_of_next h is

end Sys2Proof.Machine
end
